-- ==== Sys2Proof/Word.lean ====
section
/-! DEFINITION. The word types of the BFC-TLD block: a byte, a command word, a pad set. Every value is an
unsigned integer of the width stated (R10); bit 0 is the least significant bit (R9). -/

namespace Sys2Proof

/-- One byte: a sensor register, a register address, a byte operand (R8 REG_WIDTH, REG_ADDR_WIDTH; R30). -/
abbrev Byte := BitVec 8

/-- One command word (R80, CMD_WIDTH of R8). -/
abbrev CmdWord := BitVec 32

/-- A pad set: bit 0 Left, bit 1 Middle, bit 2 Right (R12, R85). -/
abbrev PadSet := BitVec 3

end Sys2Proof
end

