-- ==== Sys2Proof/Syntax.lean ====
section
/-! DEFINITION. The 24 commands of the command port (R2, R82), one constructor per row of the opcode table.
Operands carry the widths of R80 and of the typed arguments of R85 to R90. -/

namespace Sys2Proof

/-- A decoded command with its fields (R82, R95). -/
inductive Instr where
  /-- GETB, 0x01 (R111): byte `A`, offset `OFF`, width `WID`. -/
  | getb (a : Byte) (off : BitVec 3) (wid : BitVec 4)
  /-- SETB, 0x02 (R112): byte `A`, value `B`, offset `OFF`, width `WID`. -/
  | setb (a : Byte) (b : Byte) (off : BitVec 3) (wid : BitVec 4)
  /-- BRINGUP, 0x10 (R130). -/
  | bringup
  /-- CHKS, 0x11 (R131). -/
  | chks
  /-- RECAL, 0x12 (R132). -/
  | recal
  /-- SSENS, 0x20 (R150): a level code 0 to 7 (R88). -/
  | ssens (level : BitVec 3)
  /-- GSENS, 0x21 (R151). -/
  | gsens
  /-- SIEP, 0x22 (R152): a pad set (R85). -/
  | siep (pads : PadSet)
  /-- SIEA, 0x23 (R153): a boolean (R90). -/
  | siea (on : Bool)
  /-- GIE, 0x24 (R154). -/
  | gie
  /-- CLRI, 0x30 (R171). -/
  | clri
  /-- CHKT, 0x31 (R172). -/
  | chkt
  /-- GETT, 0x32 (R173). -/
  | gett
  /-- IST, 0x33 (R174). -/
  | ist
  /-- ISPT, 0x34 (R175): a pad selector, a one-hot pad set (R87). -/
  | ispt (pad : PadSet)
  /-- ISLS, 0x35 (R177). -/
  | isls
  /-- ISRS, 0x36 (R178). -/
  | isrs
  /-- SPBP, 0x40 (R200): a pad set (R85). -/
  | spbp (pads : PadSet)
  /-- GPBP, 0x41 (R201). -/
  | gpbp
  /-- SPBT, 0x42 (R202): a time code 0 to 3 (R89). -/
  | spbt (time : BitVec 2)
  /-- GPBT, 0x43 (R203). -/
  | gpbt
  /-- SPBE, 0x44 (R204): a boolean (R90). -/
  | spbe (on : Bool)
  /-- GPBE, 0x45 (R205). -/
  | gpbe
  /-- ISPB, 0x46 (R206). -/
  | ispb
deriving DecidableEq, Repr

end Sys2Proof
end

