-- ==== Sys2Proof/WellFormed.lean ====
section
/-! DEFINITION. Which commands a command word can hold. Every typed operand but one carries its legal range in its
type; the pad selector of ISPT is checked here (R87). -/

namespace Sys2Proof

/-- A one-hot pad set: Left, Middle or Right alone (R87). -/
def PadSet.oneHot (p : PadSet) : Bool :=
  p == 0b001#3 || p == 0b010#3 || p == 0b100#3

/-- The command has an encoding (R82, "B legal"). -/
def Instr.wellFormed : Instr → Bool
  | .getb _ _ _ => true
  | .setb _ _ _ _ => true
  | .bringup => true
  | .chks => true
  | .recal => true
  | .ssens _ => true
  | .gsens => true
  | .siep _ => true
  | .siea _ => true
  | .gie => true
  | .clri => true
  | .chkt => true
  | .gett => true
  | .ist => true
  | .ispt pad => PadSet.oneHot pad
  | .isls => true
  | .isrs => true
  | .spbp _ => true
  | .gpbp => true
  | .spbt _ => true
  | .gpbt => true
  | .spbe _ => true
  | .gpbe => true
  | .ispb => true

end Sys2Proof
end

