-- ==== Sys2Proof/Decode.lean ====
section
/-! DEFINITION. The decoder of R95, total on all 2^32 words and rejecting by name, and the encoder written from the
same table (R80 to R83). -/

namespace Sys2Proof

/-- The six fields of a command word (R80). -/
structure Fields where
  opc : Byte
  a : Byte
  b : Byte
  off : BitVec 3
  wid : BitVec 4
  rsv : BitVec 1
deriving DecidableEq, Repr

/-- The fields by name, for the decoder's rejections. -/
inductive FieldName where
  | a
  | b
  | off
  | wid
  | rsv
deriving DecidableEq, Repr

/-- Why a word decodes to ILLEGAL (R83, R84, R95). -/
inductive DecodeError where
  /-- `OPC` is none of the 24 assigned opcodes (R84). -/
  | unassignedOpcode
  /-- A field listed as "zero" in R82 is not 0 (R83). -/
  | nonzeroField (f : FieldName)
  /-- `B` is not among the legal values of the opcode (R83, R87, R90). -/
  | illegalB
deriving DecidableEq, Repr

/-- R81: the fields of a word. -/
def fieldsOf (w : CmdWord) : Fields :=
  { opc := w.extractLsb' 24 8
    a := w.extractLsb' 16 8
    b := w.extractLsb' 8 8
    off := w.extractLsb' 5 3
    wid := w.extractLsb' 1 4
    rsv := w.extractLsb' 0 1 }

/-- R81: `cmd = OPC ++ A ++ B ++ OFF ++ WID ++ RSV`. -/
def pack (f : Fields) : CmdWord :=
  f.opc ++ f.a ++ f.b ++ f.off ++ f.wid ++ f.rsv

/-- The zero check of the commands whose argument is `B` alone: A, OFF, WID and RSV are 0 (R82). -/
def zerosForTyped (f : Fields) : Except DecodeError Unit :=
  if f.a ≠ 0 then .error (.nonzeroField .a)
  else if f.off ≠ 0 then .error (.nonzeroField .off)
  else if f.wid ≠ 0 then .error (.nonzeroField .wid)
  else if f.rsv ≠ 0 then .error (.nonzeroField .rsv)
  else .ok ()

/-- A command with no operand: every operand field is 0 (R82, "all"). -/
def decodePlain (f : Fields) (i : Instr) : Except DecodeError Instr :=
  match zerosForTyped f with
  | .error e => .error e
  | .ok () => if f.b ≠ 0 then .error (.nonzeroField .b) else .ok i

/-- A command with the typed argument `B`: the other operand fields are 0 and `B` is one of the legal values
(R82, R83). -/
def decodeTyped (f : Fields) (legal : Bool) (i : Instr) : Except DecodeError Instr :=
  match zerosForTyped f with
  | .error e => .error e
  | .ok () => if legal then .ok i else .error .illegalB

/-- GETB: B and RSV are 0 (R82). -/
def decodeGetb (f : Fields) : Except DecodeError Instr :=
  if f.b ≠ 0 then .error (.nonzeroField .b)
  else if f.rsv ≠ 0 then .error (.nonzeroField .rsv)
  else .ok (.getb f.a f.off f.wid)

/-- SETB: RSV is 0, any B (R82). -/
def decodeSetb (f : Fields) : Except DecodeError Instr :=
  if f.rsv ≠ 0 then .error (.nonzeroField .rsv) else .ok (.setb f.a f.b f.off f.wid)

/-- R90: a boolean argument, 0x00 or 0x01. -/
def boolLegal (b : Byte) : Bool := b == 0x00 || b == 0x01

/-- The low three bits of the argument: a level code or a pad set. -/
def low3 (b : Byte) : BitVec 3 := b.extractLsb' 0 3

/-- R95 on the fields of a word, row by row of R82. -/
def decodeFields (f : Fields) : Except DecodeError Instr :=
  match f.opc with
  | 0x01#8 => decodeGetb f
  | 0x02#8 => decodeSetb f
  | 0x10#8 => decodePlain f .bringup
  | 0x11#8 => decodePlain f .chks
  | 0x12#8 => decodePlain f .recal
  | 0x20#8 => decodeTyped f (f.b ≤ 0x07) (.ssens (low3 f.b))
  | 0x21#8 => decodePlain f .gsens
  | 0x22#8 => decodeTyped f (f.b ≤ 0x07) (.siep (low3 f.b))
  | 0x23#8 => decodeTyped f (boolLegal f.b) (.siea (f.b == 0x01))
  | 0x24#8 => decodePlain f .gie
  | 0x30#8 => decodePlain f .clri
  | 0x31#8 => decodePlain f .chkt
  | 0x32#8 => decodePlain f .gett
  | 0x33#8 => decodePlain f .ist
  | 0x34#8 => decodeTyped f (f.b == 0x01 || f.b == 0x02 || f.b == 0x04) (.ispt (low3 f.b))
  | 0x35#8 => decodePlain f .isls
  | 0x36#8 => decodePlain f .isrs
  | 0x40#8 => decodeTyped f (f.b ≤ 0x07) (.spbp (low3 f.b))
  | 0x41#8 => decodePlain f .gpbp
  | 0x42#8 => decodeTyped f (f.b ≤ 0x03) (.spbt (f.b.extractLsb' 0 2))
  | 0x43#8 => decodePlain f .gpbt
  | 0x44#8 => decodeTyped f (boolLegal f.b) (.spbe (f.b == 0x01))
  | 0x45#8 => decodePlain f .gpbe
  | 0x46#8 => decodePlain f .ispb
  | _ => .error .unassignedOpcode

/-- R95: exactly one of the 24 commands, or ILLEGAL with its reason. -/
def decode (w : CmdWord) : Except DecodeError Instr := decodeFields (fieldsOf w)

/-- The word decodes to ILLEGAL (R95). -/
def illegal (w : CmdWord) : Bool :=
  match decode w with
  | .ok _ => false
  | .error _ => true

/-- R90: a boolean as an argument. -/
def boolByte (b : Bool) : Byte := if b then 0x01 else 0x00

/-- The opcode of each command (R82). -/
def opcodeOf : Instr → Byte
  | .getb _ _ _ => 0x01
  | .setb _ _ _ _ => 0x02
  | .bringup => 0x10
  | .chks => 0x11
  | .recal => 0x12
  | .ssens _ => 0x20
  | .gsens => 0x21
  | .siep _ => 0x22
  | .siea _ => 0x23
  | .gie => 0x24
  | .clri => 0x30
  | .chkt => 0x31
  | .gett => 0x32
  | .ist => 0x33
  | .ispt _ => 0x34
  | .isls => 0x35
  | .isrs => 0x36
  | .spbp _ => 0x40
  | .gpbp => 0x41
  | .spbt _ => 0x42
  | .gpbt => 0x43
  | .spbe _ => 0x44
  | .gpbe => 0x45
  | .ispb => 0x46

/-- A word `OPC ++ 0x00 ++ B ++ 0x00` (the typed commands, and with `B` = 0 the plain ones). -/
def typedFields (opc b : Byte) : Fields :=
  { opc := opc, a := 0, b := b, off := 0, wid := 0, rsv := 0 }

/-- The fields of a command's word (R82, R93). -/
def encodeFields (i : Instr) : Fields :=
  match i with
  | .getb a off wid => { opc := opcodeOf i, a := a, b := 0, off := off, wid := wid, rsv := 0 }
  | .setb a b off wid => { opc := opcodeOf i, a := a, b := b, off := off, wid := wid, rsv := 0 }
  | .bringup => typedFields (opcodeOf i) 0
  | .chks => typedFields (opcodeOf i) 0
  | .recal => typedFields (opcodeOf i) 0
  | .ssens level => typedFields (opcodeOf i) (level.setWidth 8)
  | .gsens => typedFields (opcodeOf i) 0
  | .siep pads => typedFields (opcodeOf i) (pads.setWidth 8)
  | .siea on => typedFields (opcodeOf i) (boolByte on)
  | .gie => typedFields (opcodeOf i) 0
  | .clri => typedFields (opcodeOf i) 0
  | .chkt => typedFields (opcodeOf i) 0
  | .gett => typedFields (opcodeOf i) 0
  | .ist => typedFields (opcodeOf i) 0
  | .ispt pad => typedFields (opcodeOf i) (pad.setWidth 8)
  | .isls => typedFields (opcodeOf i) 0
  | .isrs => typedFields (opcodeOf i) 0
  | .spbp pads => typedFields (opcodeOf i) (pads.setWidth 8)
  | .gpbp => typedFields (opcodeOf i) 0
  | .spbt time => typedFields (opcodeOf i) (time.setWidth 8)
  | .gpbt => typedFields (opcodeOf i) 0
  | .spbe on => typedFields (opcodeOf i) (boolByte on)
  | .gpbe => typedFields (opcodeOf i) 0
  | .ispb => typedFields (opcodeOf i) 0

/-- The word of a command (R80, R82). -/
def encode (i : Instr) : CmdWord := pack (encodeFields i)

/-- The host's question about one row of the opcode table. A command is one 32-bit word that arrives whole on the
command port (R69, R80), so the table's bit numbers are the word's own. -/
def decodeTableWord (nbits w : Nat) : Option Instr :=
  match decode (BitVec.ofNat 32 (w % 2 ^ nbits)) with
  | .ok i => some i
  | .error _ => none

end Sys2Proof
end

