-- ==== Sys2Proof/Config.lean ====
section
/-! DEFINITION. What an implementation fixes (the parameters of R8) and what the spec calls a draw: the
transport's answers (R54, R55) and the sensor's own steps (R64, R65). The OPEN parameters and the draws that
no schedule gives are opaque: no proof can see what they are. -/

namespace Sys2Proof

/-- `LATCH_CLEAR_MODE` (R8, R170): one blind write of 0x00, or a read-modify-write of bit 0. -/
inductive LatchMode where
  | blindZero
  | rmw
deriving DecidableEq, Repr, Inhabited

/-- `DEV_ADDR` (R8, R50). -/
def Config.devAddr : BitVec 7 := 0x28

/-- `PROBE_ATTEMPTS` (R8, R264). -/
def Config.probeAttempts : Nat := 5

/-- `PAD_COUNT` (R8): Left, Middle, Right. -/
def Config.padCount : Nat := 3

/-- `SENS_LEVELS` (R8, R88). -/
def Config.sensLevels : Nat := 8

/-- `PB_TIMES` (R8, R89). -/
def Config.pbTimes : Nat := 4

/-- `REG_MAIN_CONTROL` (R31). -/
def Config.regMainControl : Byte := 0x00

/-- `REG_GENERAL_STATUS` (R32). -/
def Config.regGeneralStatus : Byte := 0x02

/-- `REG_SENSITIVITY` (R34). -/
def Config.regSensitivity : Byte := 0x1F

/-- `REG_INT_ENABLE` (R35). -/
def Config.regIntEnable : Byte := 0x27

/-- `REG_PB` (R36). -/
def Config.regPb : Byte := 0x60

/-- `REG_PB_CONFIG` (R37). -/
def Config.regPbConfig : Byte := 0x61

/-- `CAL_ALL_CMD` (R132). -/
def Config.calAllCmd : Byte := 0x07

/-- The six addresses the source fixes (R70). -/
def Config.fixedRegs : List Byte :=
  [Config.regMainControl, Config.regGeneralStatus, Config.regSensitivity, Config.regIntEnable,
    Config.regPb, Config.regPbConfig]

/-- The parameters a model takes as an argument (R8): the four OPEN register addresses, the two OPEN bit
positions of the general status, and `LATCH_CLEAR_MODE`. -/
structure Platform where
  /-- `REG_TOUCH_STATUS` (R33) -/
  regTouchStatus : Byte
  /-- `REG_BC_OUT` (R38) -/
  regBcOut : Byte
  /-- `REG_CAL_STATUS` (R39) -/
  regCalStatus : Byte
  /-- `REG_CAL_ACTIVATE` (R40) -/
  regCalActivate : Byte
  /-- `GS_BC_OUT_BIT` (R32) -/
  gsBcOutBit : Fin 8
  /-- `GS_CAL_FAIL_BIT` (R32) -/
  gsCalFailBit : Fin 8
  /-- `LATCH_CLEAR_MODE` (R170) -/
  latchMode : LatchMode
deriving DecidableEq, Repr, Inhabited

/-- The constraints of R8 on the OPEN parameters: the addresses differ from the six fixed ones and from one
another (calibration status and calibration activate may coincide), and the two bit positions differ and are
neither 0 nor 4. -/
def Platform.ok (p : Platform) : Bool :=
  !(Config.fixedRegs.contains p.regTouchStatus) && !(Config.fixedRegs.contains p.regBcOut)
    && !(Config.fixedRegs.contains p.regCalStatus) && !(Config.fixedRegs.contains p.regCalActivate)
    && p.regTouchStatus != p.regBcOut && p.regTouchStatus != p.regCalStatus
    && p.regTouchStatus != p.regCalActivate && p.regBcOut != p.regCalStatus
    && p.regBcOut != p.regCalActivate
    && p.gsBcOutBit != 0 && p.gsBcOutBit != 4 && p.gsCalFailBit != 0 && p.gsCalFailBit != 4
    && p.gsBcOutBit != p.gsCalFailBit

/-- The OPEN parameters of R8, as no source gives them: a free constant. -/
opaque Config.openChoice : Platform

/-- One admissible instantiation of R8's constraints (log entry 3): the one 95_test_vectors.md uses for the two
bit positions, with the addresses of 93_implementation_defined.md G1 to G3. -/
def Config.admissible : Platform :=
  { regTouchStatus := 0x03, regBcOut := 0x2E, regCalStatus := 0x26, regCalActivate := 0x26,
    gsBcOutBit := 6, gsCalFailBit := 5, latchMode := .blindZero }

/-- The platform a machine starts with: any values of the OPEN parameters that R8's constraints admit (free),
and the default clear mode of R8 (D13). Where the free constant is not admissible, an admissible one stands in
its place, so this ranges over exactly the admissible choices (log entry 3). -/
def Config.platform : Platform :=
  if Config.openChoice.ok then
    { Config.openChoice with latchMode := .blindZero }
  else
    Config.admissible

/-- The transport's answer to one transaction (R54, R56): an error, or a list of `n` bytes. A read succeeds only
with a list of exactly one byte. -/
inductive Reply where
  | error
  | list (n : Nat)
deriving DecidableEq, Repr, Inhabited

/-- What one sensor step draws (R64, R65): a new byte for any of the five status registers, the bit `s` that
sets the latch for no stated cause, and whether a recalibration in progress ends (R44, R271). -/
structure SensorDraw where
  generalStatus : Option Byte
  touchStatus : Option Byte
  bcOut : Option Byte
  calStatus : Option Byte
  calActivate : Option Byte
  latch : Bool
  calDone : Bool
deriving DecidableEq, Repr, Inhabited

/-- What the other agents do at one step of the block or of the host: the sensor steps that fall just before it (R26:
any number, never inside a block step), whether a block reset is asserted just before it (R260), the transport's
answer if it is a transaction or a probe, whether a failed write reached the sensor (R55), and whether, while the block
is BUSY, the host's port move takes the turn and not the block (log entry 12). -/
structure Slot where
  sensor : List SensorDraw
  reset : Bool
  reply : Reply
  landed : Bool
  host : Bool
deriving DecidableEq, Repr, Inhabited

/-- Free draws: the sensor steps before the `n`-th step that no schedule describes (R64, R65). -/
opaque Config.freeSensor : Nat → List SensorDraw

/-- Free draw: the transport's answer there (R54). -/
opaque Config.freeReply : Nat → Reply

/-- Free draw: whether a failed write there reached the sensor (R55). -/
opaque Config.freeLanded : Nat → Bool

/-- Free draw: whether a port move of the host takes a turn of a BUSY block there (log entry 12). -/
opaque Config.freeHost : Nat → Bool

/-- The slot of the `n`-th step that no schedule describes: every draw of the spec is free. A block reset
is no draw but an outside input, and none is asserted there (log entry 5). -/
def Config.freeSlot (n : Nat) : Slot :=
  { sensor := Config.freeSensor n, reset := false, reply := Config.freeReply n,
    landed := Config.freeLanded n, host := Config.freeHost n }

end Sys2Proof
end

