-- ==== Sys2Proof/Machine/State.lean ====
section
/-! DEFINITION. The machine's state as plain data: one record per agent of R7 (block, sensor, host, and the
environment's schedule), the platform parameters of R8, and the observation of R277. -/

namespace Sys2Proof.Machine

open Sys2Proof

/-- The sensor's register file `SREG` (R30, R50) as cells (address, byte); Machine/Memory.lean says what an
unlisted address reads as and which lists are canonical. -/
abbrev Memory := List Host.Cell

/-- `PHASE` (R20, R26): IDLE, or BUSY with the command, the number of transactions done and the command's locals
(the bytes it has read, in order; log entry 16). -/
inductive Phase where
  | idle
  | busy (op : Instr) (k : Nat) (locals : List Byte)
deriving DecidableEq, Repr

/-- The block registers of R20 and the `done` event of R29 (log entry 9). -/
structure Block where
  phase : Phase
  /-- `RESULT[7:0]` (R21) -/
  result : Byte
  /-- `RESULT_VALID` (R22) -/
  resultValid : Bool
  /-- `ERR[3:0]` (R23) -/
  err : BitVec 4
  /-- `ERR_INFO[31:0]` (R47) -/
  errInfo : BitVec 32
  /-- `WARN[2:0]` (R24) -/
  warn : BitVec 3
  /-- `BC_PADS[2:0]` (R25) -/
  bcPads : PadSet
  /-- `CAL_PADS[2:0]` (R25) -/
  calPads : PadSet
  /-- `CPC[31:0]` (R27) -/
  cpc : BitVec 32
  /-- the port event `done` (R29): set by a commit, held until the next accept or reset -/
  done : Bool
deriving DecidableEq, Repr

/-- The sensor agent (R30, R44): its register file, and a recalibration in progress. -/
structure Sensor where
  sreg : Memory
  calPending : Bool
deriving DecidableEq, Repr

/-- The block's output ports to the host (R29). The bus ports face the transport: their requests and answers are the
bus history. -/
inductive OutPort where
  | cmdReady
  | done
  | result
  | resultValid
  | err
  | errInfo
  | warn
  | bcPads
  | calPads
  | cpc
  | cbGet
  | cbSet
  | cbRangeOk
deriving DecidableEq, Repr

/-- What the host got from an output port, at the port's width (R29). -/
inductive PortRead where
  | cmdReady (v : Bool)
  | done (v : Bool)
  | result (v : Byte)
  | resultValid (v : Bool)
  | err (v : BitVec 4)
  | errInfo (v : BitVec 32)
  | warn (v : BitVec 3)
  | bcPads (v : PadSet)
  | calPads (v : PadSet)
  | cpc (v : BitVec 32)
  | cbGet (v : Byte)
  | cbSet (v : Byte)
  | cbRangeOk (v : Bool)
deriving DecidableEq, Repr

/-- One move of the host (R29, R267, R262). -/
inductive HostMove where
  /-- present a command word on `cmd` (R26, R29) -/
  | present (w : CmdWord)
  /-- start the boot protocol with a device address and, or not, a transport (R262, R263) -/
  | connect (addr : BitVec 32) (hasTransport : Bool)
  /-- read an output port (R29) -/
  | readPort (p : OutPort)
  /-- drive the codec ports' inputs (R29) -/
  | driveCodec (byte value : Byte) (off : BitVec 3) (wid : BitVec 4)
deriving DecidableEq, Repr

/-- Where the host's boot protocol stands (R262 to R265). -/
inductive Boot where
  | off
  /-- `made` probe attempts have failed (R264) -/
  | probing (made : Nat)
  /-- a probe succeeded and BRINGUP is to be presented (R265) -/
  | issue
  /-- BRINGUP was presented and its commit is awaited (R265) -/
  | await
  | ready
  /-- construction failed with an error code and its info (R230, R234) -/
  | failed (code : BitVec 4) (info : BitVec 32)
deriving DecidableEq, Repr

/-- The host agent (R7): its moves still to come, its boot protocol, what it has read from the ports (newest first),
and the codec port inputs it drives (R29). -/
structure HostAgent where
  moves : List HostMove
  boot : Boot
  got : List PortRead
  cbByte : Byte
  cbValue : Byte
  cbOff : BitVec 3
  cbWid : BitVec 4
deriving DecidableEq, Repr

/-- How much of R26's lifecycle one `step` covers: a whole command, or one block step (log entry 6). -/
inductive Grain where
  | command
  | transaction
deriving DecidableEq, Repr

/-- The environment's schedule: the slots of the coming steps; past its end the slots are the free ones of Config,
counted by `drawn` (log entry 4). -/
structure Env where
  sched : List Slot
  drawn : Nat
  grain : Grain
deriving DecidableEq, Repr

/-- `kind` of a transaction (R47): 0 a read, 1 a write. -/
inductive BusKind where
  | rd
  | wr
deriving DecidableEq, Repr

/-- One transaction with its request and response (R29, R52, R53), or a probe of the boot protocol (R264). -/
inductive BusEvent where
  /-- a read request and the byte returned, `none` where the transport answered `ok = 0` -/
  | read (dev : BitVec 7) (reg : Byte) (data : Option Byte)
  /-- a write request and the transport's `ok` -/
  | write (dev : BitVec 7) (reg : Byte) (data : Byte) (ok : Bool)
  /-- `read_byte(dev)` and whether it succeeded -/
  | probe (dev : BitVec 7) (ok : Bool)
deriving DecidableEq, Repr

/-- One command's status at its commit (R277); `result` is there exactly when `RESULT_VALID` = 1. -/
structure CommitRecord where
  result : Option Byte
  err : BitVec 4
  errInfo : BitVec 32
  warn : BitVec 3
  bcPads : PadSet
  calPads : PadSet
deriving DecidableEq, Repr

/-- The observation of a run (R277), newest first. DESIGN CHOICE (log entry 17): `bus` holds the host's probes too, in
order with the block's transactions, where R62 and R277 do not say whether they belong to the bus history. -/
structure Trace where
  bus : List BusEvent
  commits : List CommitRecord
deriving DecidableEq, Repr

/-- The whole machine. -/
structure State where
  block : Block
  sensor : Sensor
  host : HostAgent
  env : Env
  plat : Platform
  trace : Trace
deriving DecidableEq, Repr

/-- Why a step stops the machine. -/
inductive Fault where
  /-- The host read `RESULT` while `RESULT_VALID` = 0: "reading `RESULT` while `RESULT_VALID == 0` is a fault, not a
  value" (R21). Raised by `State.portValue`. Safe: the spec gives no value. -/
  | resultNotValid
  /-- The host read `cb_get` or `cb_set` while `cb_range_ok` = 0: "they hold no value, a fault in a model" (R29).
  Raised by `State.portValue`. Safe: the spec gives no value. -/
  | codecNoValue
deriving DecidableEq, Repr

/-- Why a step is refused. -/
inductive Refusal where
  /-- The instruction has no meaning yet. Raised by `exec`'s arms only (none now). Safe. -/
  | notModelled (mnemonic : String)
  /-- A command was to be accepted while `PHASE` is BUSY: "not accepted and is not queued" (R267), a move that "does
  not exist in the model" (93_implementation_defined.md I19). Raised by `beginCommand`; `step` never asks for it
  (log entry 13). Safe. -/
  | commandWhileBusy
deriving DecidableEq, Repr

/-- R45: the block registers after a block reset; `RESULT` has no value there, and 0x00 stands in for it (log entry
1), unreadable while `RESULT_VALID` = 0. -/
def Block.reset : Block :=
  { phase := .idle, result := 0, resultValid := false, err := 0, errInfo := 0, warn := 0, bcPads := 0,
    calPads := 0, cpc := 0, done := false }

/-- A host that has made no move and has none to make. -/
def HostAgent.reset : HostAgent :=
  { moves := [], boot := .off, got := [], cbByte := 0, cbValue := 0, cbOff := 0, cbWid := 0 }

/-- No schedule: every draw is free (log entry 4). -/
def Env.reset : Env := { sched := [], drawn := 0, grain := .command }

/-- The machine after power-on with a given `SREG`, "any byte at every address" (R46), and a given platform (R8). -/
def State.powerOn (p : Platform) (sreg : Memory) : State :=
  { block := Block.reset
    sensor := { sreg := sreg, calPending := false }
    host := HostAgent.reset
    env := Env.reset
    plat := p
    trace := { bus := [], commits := [] } }

/-- The machine right after reset (R45, R260, R261): nothing listed in `SREG` (log entry 2), the platform's OPEN
parameters free (log entry 3). -/
def State.reset : State := State.powerOn Config.platform []

end Sys2Proof.Machine
end

