-- ==== Sys2Proof/Machine/Memory.lean ====
section
/-! DEFINITION. `SREG` as a canonical list of cells (R30, R50): reading, writing, and the canonical form. -/

namespace Sys2Proof.Machine

open Sys2Proof

/-- What an address nothing has written reads as. R46 leaves the power-on value of every register unspecified; 0x00
is this model's choice (log entry 2). -/
def Memory.unlisted : Byte := 0x00

/-- The byte at an address. -/
def Memory.read : Memory → Nat → Byte
  | [], _ => Memory.unlisted
  | (b, v) :: m, a => if a = b then v else Memory.read m a

/-- The cells at other addresses. -/
def Memory.erase (m : Memory) (a : Nat) : Memory := m.filter fun c => c.1 != a

/-- A cell put before the first one with a higher address. -/
def Memory.insert : Memory → Nat → Byte → Memory
  | [], a, v => [(a, v)]
  | (b, w) :: m, a, v => if a < b then (a, v) :: (b, w) :: m else (b, w) :: Memory.insert m a v

/-- The memory with one byte written; writing what an unlisted address reads as removes the cell. -/
def Memory.write (m : Memory) (a : Nat) (v : Byte) : Memory :=
  if v = Memory.unlisted then Memory.erase m a else Memory.insert (Memory.erase m a) a v

/-- The canonical form: addresses strictly rising, within the 256 of R50, and no cell equal to what an unlisted
address reads as. -/
def Memory.wf : Memory → Bool
  | [] => true
  | (a, v) :: m => v != Memory.unlisted && decide (a < 256) && m.all (fun c => decide (a < c.1)) && Memory.wf m

/-- `SREG[a]` (R30). -/
def Sensor.reg (z : Sensor) (a : Byte) : Byte := Memory.read z.sreg a.toNat

/-- `SREG[a] <- v` (R53). -/
def Sensor.setReg (z : Sensor) (a v : Byte) : Sensor :=
  { z with sreg := Memory.write z.sreg a.toNat v }

end Sys2Proof.Machine
end

