-- ==== Sys2Proof/Machine/Operands.lean ====
section
/-! DEFINITION. The operand forms: the bit-field codec (R110), pad sets and their algebra (R85 to R87), level and
time codes (R88, R89), booleans (R90). -/

namespace Sys2Proof.Machine

open Sys2Proof

/-- R110: `mask(w) = ((1 << w) - 1)[7:0]`. -/
def mask (w : Nat) : Byte := BitVec.ofNat 8 (2 ^ w - 1)

/-- R110: `get_bits(b, o, w)`. -/
def getBits (b : Byte) (o w : Nat) : Byte := (b >>> o) &&& mask w

/-- R110: `set_bits(b, v, o, w)`. -/
def setBits (b v : Byte) (o w : Nat) : Byte :=
  (b &&& ~~~(mask w <<< o)) ||| ((v &&& mask w) <<< o)

/-- R113: `OFF + WID <= 8`. -/
def rangeOk (off : BitVec 3) (wid : BitVec 4) : Bool := decide (off.toNat + wid.toNat ≤ 8)

/-- The three pads (R12). -/
inductive Pad where
  | left
  | middle
  | right
deriving DecidableEq, Repr

/-- R86: `bit(L)`, `bit(M)`, `bit(R)`. -/
def Pad.bit : Pad → PadSet
  | .left => 0b001
  | .middle => 0b010
  | .right => 0b100

/-- R86: union. -/
def PadSet.union (p q : PadSet) : PadSet := p ||| q

/-- R86: intersection. -/
def PadSet.inter (p q : PadSet) : PadSet := p &&& q

/-- R86: membership, `(p & bit(x)) != 0`. -/
def PadSet.has (p : PadSet) (x : Pad) : Bool := (p &&& x.bit) != 0

/-- R86: emptiness. -/
def PadSet.isEmpty (p : PadSet) : Bool := p == 0

/-- R12: the set of a list of pads, the OR of its members. -/
def PadSet.ofList : List Pad → PadSet
  | [] => 0
  | x :: xs => PadSet.union x.bit (PadSet.ofList xs)

/-- R92: a pad set, a level code or a time code zero-extended to a byte. -/
def zext8 {n : Nat} (v : BitVec n) : Byte := v.setWidth 8

/-- The low three bits of a byte as a pad set (R33, R38, R39). -/
def padsOf (b : Byte) : PadSet := b.extractLsb' 0 3

/-- R88: `multiplier = 128 >> code`. -/
def multiplier (level : BitVec 3) : Nat := 128 >>> level.toNat

/-- R89: the hold duration of a time code, in milliseconds. -/
def holdMs : BitVec 2 → Nat
  | 0 => 280
  | 1 => 560
  | 2 => 1120
  | 3 => 2240

/-- R90: a boolean as a byte. -/
def boolResult (b : Bool) : Byte := if b then 0x01 else 0x00

end Sys2Proof.Machine
end

