-- ==== Sys2Proof/Machine/Flags.lean ====
section
/-! DEFINITION. The flags of R43: the sensor's latch and status flags by name, and the warning bits of the block. -/

namespace Sys2Proof.Machine

open Sys2Proof

/-- The interrupt latch `INT`, `SREG[0x00][0]` (R31, R43). -/
def Sensor.latch (z : Sensor) : Bool := (z.reg Config.regMainControl).getLsbD 0

/-- `TOUCHED[2:0]` (R33, R43). -/
def Sensor.touched (z : Sensor) (p : Platform) : PadSet := padsOf (z.reg p.regTouchStatus)

/-- `TOUCH`, the aggregate touch flag (R32, R43). -/
def Sensor.touchFlag (z : Sensor) : Bool := (z.reg Config.regGeneralStatus).getLsbD 0

/-- `PWR`, power button touched (R32, R43). -/
def Sensor.pwrFlag (z : Sensor) : Bool := (z.reg Config.regGeneralStatus).getLsbD 4

/-- `BC_OUT` at its OPEN position (R32, R43). -/
def Sensor.bcOutFlag (z : Sensor) (p : Platform) : Bool :=
  (z.reg Config.regGeneralStatus).getLsbD p.gsBcOutBit.val

/-- `CAL_FAIL` at its OPEN position (R32, R43). -/
def Sensor.calFailFlag (z : Sensor) (p : Platform) : Bool :=
  (z.reg Config.regGeneralStatus).getLsbD p.gsCalFailBit.val

/-- `IE`, the pads whose touch can set the latch (R35, R241). -/
def Sensor.enabled (z : Sensor) : PadSet := padsOf (z.reg Config.regIntEnable)

/-- The warnings of R235, with the pads CHKS reports. -/
inductive Warning where
  | baseCountOut (pads : PadSet)
  | calibrationFailed (pads : PadSet)
  | notImplemented
deriving DecidableEq, Repr

/-- R24: `W_BC_OUT`, bit 0 of `WARN`. -/
def wBcOut : BitVec 3 := 0b001

/-- R24: `W_CAL_FAIL`, bit 1 of `WARN`. -/
def wCalFail : BitVec 3 := 0b010

/-- R24: `W_NOT_IMPL`, bit 2 of `WARN`. -/
def wNotImpl : BitVec 3 := 0b100

/-- R236: a warning sets its bit of `WARN` and, for CHKS, writes the pad set into its detail register. -/
def Block.applyWarning (b : Block) : Warning → Block
  | .baseCountOut pads => { b with warn := b.warn ||| wBcOut, bcPads := pads }
  | .calibrationFailed pads => { b with warn := b.warn ||| wCalFail, calPads := pads }
  | .notImplemented => { b with warn := b.warn ||| wNotImpl }

end Sys2Proof.Machine
end

