-- ==== Sys2Proof/Machine/Ops.lean ====
section
/-! DEFINITION. The named operations of the machine: the environment's slots, the sensor's step (R64 to R67), block
reset (R260), accept and commit (R26), `raise` (R238) as the one way an error is taken, the bus transactions (R52 to
R56), and a command's pseudocode as a script that the block runs one transaction at a time (R26). -/

namespace Sys2Proof.Machine

open Sys2Proof

/-! ### The environment's slots -/

/-- The slot of the `n`-th coming step: from the schedule, and past its end a free one (log entry 4). -/
def Env.slotAt (e : Env) (n : Nat) : Slot :=
  (e.sched[n]?).getD (Config.freeSlot (e.drawn + (n - e.sched.length)))

/-- The slot of the next step. -/
def Env.next (e : Env) : Slot := e.slotAt 0

/-- The environment after one step. -/
def Env.advance (e : Env) : Env :=
  match e.sched with
  | [] => { e with drawn := e.drawn + 1 }
  | _ :: rest => { e with sched := rest }

/-- R56: a read succeeds only with a list of exactly one byte (log entry 14). -/
def readOk : Reply → Bool
  | .error => false
  | .list n => n == 1

/-- R53: a write succeeds unless the transport reports an error (log entry 14). -/
def writeOk : Reply → Bool
  | .error => false
  | .list _ => true

/-! ### The sensor -/

/-- A status register replaced by a drawn byte, or left (R64). -/
def Sensor.redraw (z : Sensor) (a : Byte) : Option Byte → Sensor
  | some v => z.setReg a v
  | none => z

/-- R64: the status registers after a sensor step's draws. DESIGN CHOICE (log entry 20): a register that no rule names is
not drawn, where R42 puts it in neither class and 91_not_in_source.md N3 assumes no behaviour of it. -/
def Sensor.redrawAll (p : Platform) (d : SensorDraw) (z : Sensor) : Sensor :=
  ((((z.redraw Config.regGeneralStatus d.generalStatus).redraw p.regTouchStatus d.touchStatus).redraw
    p.regBcOut d.bcOut).redraw p.regCalStatus d.calStatus).redraw p.regCalActivate d.calActivate

/-- R65, `e`: an enabled pad went from 0 to 1. -/
def pressed (p : Platform) (before after : Sensor) : Bool :=
  (after.touched p &&& ~~~(before.touched p) &&& before.enabled) != 0

/-- R65: `SREG'[0x00][0] = SREG[0x00][0] | e | s`. -/
def Sensor.setLatch (z : Sensor) (on : Bool) : Sensor :=
  if on then z.setReg Config.regMainControl (z.reg Config.regMainControl ||| 0x01) else z

/-- One sensor step (R64 to R67): the status registers' draws, the latch, and a recalibration that may end (R271). DESIGN
CHOICE (log entry 20): it leaves every register that no rule names as it was, where the spec says neither that a sensor
step may change such a register nor that it may not. -/
def sensorStep (p : Platform) (d : SensorDraw) (z : Sensor) : Sensor :=
  let z' := Sensor.redrawAll p d z
  { z'.setLatch (pressed p z z' || d.latch) with calPending := z.calPending && !d.calDone }

/-- The sensor steps that fall between two block steps (R26), in order. -/
def sensorSteps (p : Platform) : List SensorDraw → Sensor → Sensor
  | [], z => z
  | d :: ds, z => sensorSteps p ds (sensorStep p d z)

/-- A write that reached the sensor: the byte is stored, and 0x07 in calibration activate starts a recalibration
(R53, R60). The latch is bit 0 of the byte in main control, so a write with bit 0 = 0 there clears it. -/
def Sensor.store (p : Platform) (a v : Byte) (z : Sensor) : Sensor :=
  { z.setReg a v with
    calPending := z.calPending || (a == p.regCalActivate && v == Config.calAllCmd) }

/-- The state as the next step of the block or the host finds it: the sensor steps before that step have happened. -/
def State.arrive (s : State) : State :=
  { s with sensor := sensorSteps s.plat s.env.next.sensor s.sensor, env := s.env.advance }

/-- The state after the sensor steps of the next `n` steps, with no step taken. -/
def State.arriveN : Nat → State → State
  | 0, s => s
  | n + 1, s => State.arriveN n s.arrive

/-! ### Block reset, accept, commit, raise -/

/-- R260, R261: every block register takes its reset value; `SREG` and the bus are untouched. -/
def State.blockReset (s : State) : State := { s with block := Block.reset }

/-- A connect that awaits BRINGUP's commit is given up when a reset abandons that command (log entry 11). -/
def Boot.onAbandon : Boot → Boot
  | .await => .off
  | .off => .off
  | .probing n => .probing n
  | .issue => .issue
  | .ready => .ready
  | .failed c i => .failed c i

/-- R260: a command in progress is abandoned without a commit. DESIGN CHOICE (log entry 18): the host does not present
the abandoned word again and does not start its program again; it goes on with the words left in `host.moves`, although
`CPC`, the index of the next word (R27), is 0. -/
def State.abandon (s : State) : State :=
  { s.blockReset with host := { s.host with boot := s.host.boot.onAbandon } }

/-- What a step of the block in IDLE, or of the host, finds: the sensor steps before it, and a block reset if one is
asserted (R260). -/
def State.idleArrive (s : State) : State :=
  if s.env.next.reset then s.arrive.blockReset else s.arrive

/-- R26, accept: the status registers are cleared. -/
def Block.acceptClear (b : Block) : Block :=
  { b with err := 0, errInfo := 0, warn := 0, bcPads := 0, calPads := 0, resultValid := false, done := false }

/-- R26, accept: the sensor steps before it, then the status registers cleared. -/
def State.accept (s : State) : State :=
  let s1 := s.idleArrive
  { s1 with block := s1.block.acceptClear }

/-- The status of a command at its commit (R277). -/
def Block.record (b : Block) : CommitRecord :=
  { result := if b.resultValid then some b.result else none
    err := b.err, errInfo := b.errInfo, warn := b.warn, bcPads := b.bcPads, calPads := b.calPads }

/-- R26, R27, commit: `CPC` advances modulo 2^32 and `PHASE` is IDLE. -/
def State.commit (s : State) : State :=
  { s with
    block := { s.block with cpc := s.block.cpc + 1, phase := .idle, done := true }
    trace := { s.trace with commits := s.block.record :: s.trace.commits } }

/-- R26: `complete(r)`. -/
def State.completeWith (r : Byte) (s : State) : State :=
  { s with block := { s.block with result := r, resultValid := true } }.commit

/-- R26: `complete()`. -/
def State.completeNone (s : State) : State := s.commit

/-- The errors of R230, with what they record. -/
inductive Error where
  | illegalCommand (w : CmdWord)
  | fieldRange (off : BitVec 3) (wid : BitVec 4)
  | transportError (kind : BusKind) (a : Byte)
  | invalidAddress (addr : BitVec 32)
  | invalidBus
  | notConnected
deriving DecidableEq, Repr

/-- R230: the error code. -/
def Error.code : Error → BitVec 4
  | .illegalCommand _ => 1
  | .fieldRange _ _ => 2
  | .transportError _ _ => 3
  | .invalidAddress _ => 4
  | .invalidBus => 5
  | .notConnected => 6

/-- R47: `kind` as a bit. -/
def BusKind.bit : BusKind → BitVec 1
  | .rd => 0
  | .wr => 1

/-- R47, R230: what the error records in `ERR_INFO`. -/
def Error.info : Error → BitVec 32
  | .illegalCommand w => w
  | .fieldRange off wid => (off ++ wid).setWidth 32
  | .transportError kind a => (kind.bit ++ a).setWidth 32
  | .invalidAddress addr => addr
  | .invalidBus => 0
  | .notConnected => 5

/-- R238: `raise E(info)`, the one way the block takes an error. -/
def State.raiseError (e : Error) (s : State) : State :=
  { s with block := { s.block with err := e.code, errInfo := e.info, resultValid := false } }.commit

/-! ### Bus transactions -/

/-- A read and its answer in the bus history (R52, R54). -/
def State.logRead (a : Byte) (data : Option Byte) (s : State) : State :=
  { s with trace := { s.trace with bus := .read Config.devAddr a data :: s.trace.bus } }

/-- A write and its answer in the bus history (R53, R55). -/
def State.logWrite (a v : Byte) (ok : Bool) (s : State) : State :=
  { s with trace := { s.trace with bus := .write Config.devAddr a v ok :: s.trace.bus } }

/-- The write's byte reaches the sensor (R53). -/
def State.storeReg (a v : Byte) (s : State) : State :=
  { s with sensor := s.sensor.store s.plat a v }

/-- R54: a read with `ok = 0` ends the command, in the same block step (R26 "at once", log entry 7). -/
def State.failRead (a : Byte) (s : State) : State :=
  (s.logRead a none).raiseError (.transportError .rd a)

/-- R55: a write with `ok = 0` ends the command, in the same block step (log entry 7); the byte may have reached the
sensor. -/
def State.failWrite (a v : Byte) (landed : Bool) (s : State) : State :=
  ((if landed then s.storeReg a v else s).logWrite a v false).raiseError (.transportError .wr a)

/-- R52: a read with `ok = 1`. -/
def State.doneRead (a : Byte) (s : State) : State := s.logRead a (some (s.sensor.reg a))

/-- R53: a write with `ok = 1`. -/
def State.doneWrite (a v : Byte) (s : State) : State := (s.storeReg a v).logWrite a v true

/-- A warning's effect on the block registers (R236). -/
def State.warned (w : Warning) (s : State) : State := { s with block := s.block.applyWarning w }

/-! ### A command's pseudocode -/

/-- The pseudocode of a command (R11): reads, writes, warnings and the completion, in order. -/
inductive Script where
  /-- `b <- MemRead(a, 1)`, then the rest with `b` -/
  | read (a : Byte) (rest : Byte → Script)
  /-- `MemWrite(a, 1, v)`, then the rest -/
  | write (a v : Byte) (rest : Script)
  /-- `warn W(info)`, then the rest -/
  | warn (w : Warning) (rest : Script)
  /-- `complete(r)` -/
  | result (r : Byte)
  /-- `complete()` -/
  | finish

/-- A read-modify-write of one field (R41, R268): read, `set_bits`, write the full byte back. -/
def Script.modify (a v : Byte) (o w : Nat) (rest : Script) : Script :=
  .read a fun b => .write a (setBits b v o w) rest

/-- A fresh read of one field, right-justified (R61, R92). -/
def Script.field (a : Byte) (o w : Nat) : Script :=
  .read a fun b => .result (getBits b o w)

/-- `ClearLatch()` (R170), in either mode. -/
def Script.clearLatch (mode : LatchMode) (rest : Script) : Script :=
  match mode with
  | .blindZero => .write Config.regMainControl 0x00 rest
  | .rmw => .modify Config.regMainControl 0 0 1 rest

/-- A command's remaining pseudocode run to its end, one slot per transaction and one for the commit (R26, R62). A
reset before a block step abandons the command (R260); a failing transaction ends it (R54, R55, R233). -/
def runScript : Script → State → State
  | .read a rest, s =>
    if s.env.next.reset then s.arrive.abandon
    else if readOk s.env.next.reply then
      runScript (rest (s.arrive.sensor.reg a)) (s.arrive.doneRead a)
    else s.arrive.failRead a
  | .write a v rest, s =>
    if s.env.next.reset then s.arrive.abandon
    else if writeOk s.env.next.reply then runScript rest (s.arrive.doneWrite a v)
    else s.arrive.failWrite a v s.env.next.landed
  | .warn w rest, s => runScript rest (s.warned w)
  | .result r, s =>
    if s.env.next.reset then s.arrive.abandon else s.arrive.completeWith r
  | .finish, s =>
    if s.env.next.reset then s.arrive.abandon else s.arrive.completeNone

/-- The pseudocode that is left after `k` transactions that returned the bytes `locals`: BUSY(op, k, locals) of R26. -/
def Script.resume : Script → Nat → List Byte → Script
  | .read _ rest, k + 1, b :: bs => (rest b).resume k bs
  | .write _ _ rest, k + 1, bs => rest.resume k bs
  | .warn _ rest, k + 1, bs => rest.resume (k + 1) bs
  | scr, _, _ => scr

/-- R26: `k` and the locals after one more transaction. -/
def State.progress (op : Instr) (k : Nat) (locals : List Byte) (s : State) : State :=
  { s with block := { s.block with phase := .busy op k locals } }

/-- One block step of a BUSY block (R26): the pseudocode up to and including its next transaction, or the commit. -/
def scriptStep (op : Instr) (k : Nat) (locals : List Byte) : Script → State → State
  | .read a _, s =>
    if s.env.next.reset then s.arrive.abandon
    else if readOk s.env.next.reply then
      (s.arrive.doneRead a).progress op (k + 1) (locals ++ [s.arrive.sensor.reg a])
    else s.arrive.failRead a
  | .write a v _, s =>
    if s.env.next.reset then s.arrive.abandon
    else if writeOk s.env.next.reply then (s.arrive.doneWrite a v).progress op (k + 1) locals
    else s.arrive.failWrite a v s.env.next.landed
  | .warn w rest, s => scriptStep op k locals rest (s.warned w)
  | .result r, s =>
    if s.env.next.reset then s.arrive.abandon else s.arrive.completeWith r
  | .finish, s =>
    if s.env.next.reset then s.arrive.abandon else s.arrive.completeNone

/-! ### A command -/

/-- R26: the accept step of a command, then its pseudocode. `refuse` is the accept step's own check (R113): an error
it finds is raised there and the command has no transaction. With the whole-command grain the command runs to its
end; with the transaction grain only the accept step is taken (log entry 6). -/
def beginCommand (op : Instr) (refuse : Option Error) (scr : Script) (s : State) :
    Host.Outcome State Fault Refusal :=
  match s.block.phase with
  | .busy _ _ _ => .refused .commandWhileBusy
  | .idle =>
    .next (match refuse with
      | some e => s.accept.raiseError e
      | none =>
        match s.env.grain with
        | .command => runScript scr (s.accept.progress op 0 [])
        | .transaction => s.accept.progress op 0 [])

/-- R26, R231: the accept step of a word that decodes to ILLEGAL. -/
def acceptIllegal (w : CmdWord) (s : State) : State := s.accept.raiseError (.illegalCommand w)

end Sys2Proof.Machine
end

