-- ==== Sys2Proof/Machine/Boot.lean ====
section
/-! DEFINITION. The host's boot protocol around the block (70_reset_and_hazards.md R262 to R265). Its errors are the
codes 4 to 6 of R230, held in the host's own record; the block never raises them. -/

namespace Sys2Proof.Machine

open Sys2Proof

/-- Construction fails with an error (R234). -/
def Boot.failWith (e : Error) : Boot := .failed e.code e.info

/-- R262 and R263, in that order: the address check, then the transport check; no bus transaction. -/
def Boot.start (addr : BitVec 32) (hasTransport : Bool) : Boot :=
  if addr ≠ Config.devAddr.setWidth 32 then Boot.failWith (.invalidAddress addr)
  else if hasTransport then .probing 0
  else Boot.failWith .invalidBus

/-- R262, R263: the host starts the boot protocol. -/
def connectStart (addr : BitVec 32) (hasTransport : Bool) (s : State) : State :=
  { s with host := { s.host with boot := Boot.start addr hasTransport } }

/-- R264: after a probe attempt with `made` failed ones before it. -/
def Boot.afterProbe (made : Nat) (ok : Bool) : Boot :=
  if ok then .issue
  else if made + 1 < Config.probeAttempts then .probing (made + 1)
  else Boot.failWith .notConnected

/-- R264: one `read_byte(DEV_ADDR)`, its data ignored, its error swallowed. DESIGN CHOICE (log entry 17): the probe is
entered in the bus history `trace.bus`, and so in `observe`; R62 calls that history an order of the block's
transactions, and neither it nor R277 says whether a call of the host on the transport belongs to it. -/
def probeStep (made : Nat) (s : State) : State :=
  let ok := writeOk s.env.next.reply
  let s1 := s.idleArrive
  { s1 with
    host := { s1.host with boot := Boot.afterProbe made ok }
    trace := { s1.trace with bus := .probe Config.devAddr ok :: s1.trace.bus } }

/-- R265: the host presents BRINGUP and awaits its commit. -/
def awaitBringup (s : State) : State :=
  { s with host := { s.host with boot := .await } }

/-- R265: after BRINGUP's commit the host reads its error, and construction has succeeded or fails with it. DESIGN
CHOICE (log entry 11): a block reset just before that read gives the connect up, since the error can no longer be read. -/
def concludeBoot (s : State) : State :=
  let s1 := s.idleArrive
  { s1 with host := { s1.host with
      boot :=
        if s.env.next.reset then .off
        else if s1.block.err = 0 then .ready
        else .failed s1.block.err s1.block.errInfo } }

end Sys2Proof.Machine
end

