-- ==== Sys2Proof/Machine/Ports.lean ====
section
/-! DEFINITION. The ports of the block (R29) as read from the state, the host's reads of them, the codec ports' inputs
and outputs, and the observation at the end of a run (R277). -/

namespace Sys2Proof.Machine

open Sys2Proof

/-- `cmd_ready` (R20, R29). -/
def State.cmdReady (s : State) : Bool :=
  match s.block.phase with
  | .idle => true
  | .busy _ _ _ => false

/-- The word a host move presents (R29). -/
def HostMove.word : HostMove → Option CmdWord
  | .present w => some w
  | .connect _ _ => none
  | .readPort _ => none
  | .driveCodec _ _ _ _ => none

/-- The word of BRINGUP, which the boot protocol presents (R265). -/
def bringupWord : CmdWord := encode .bringup

/-- The word the host has ready: BRINGUP's where the boot protocol issues it (R265), none while the protocol probes or
awaits, else that of its next move. -/
def HostAgent.word (h : HostAgent) : Option CmdWord :=
  match h.boot with
  | .issue => some bringupWord
  | .probing _ => none
  | .await => none
  | .off => h.moves.head?.bind HostMove.word
  | .ready => h.moves.head?.bind HostMove.word
  | .failed _ _ => h.moves.head?.bind HostMove.word

/-- `cmd`, present only while `cmd_valid` = 1: the host presents a word only while `cmd_ready` = 1 (R29, R267). -/
def State.cmd (s : State) : Option CmdWord :=
  if s.cmdReady then s.host.word else none

/-- `cmd_valid` (R29). -/
def State.cmdValid (s : State) : Bool := s.cmd.isSome

/-- The `result` port: a value only while `RESULT_VALID` = 1 (R21). -/
def State.resultPort (s : State) : Except Fault Byte :=
  if s.block.resultValid then .ok s.block.result else .error .resultNotValid

/-- `cb_range_ok` (R29, R113). -/
def State.cbRangeOk (s : State) : Bool := rangeOk s.host.cbOff s.host.cbWid

/-- `cb_get` (R29, R110): no value while `cb_range_ok` = 0. -/
def State.cbGet (s : State) : Except Fault Byte :=
  if s.cbRangeOk then .ok (getBits s.host.cbByte s.host.cbOff.toNat s.host.cbWid.toNat)
  else .error .codecNoValue

/-- `cb_set` (R29, R110): no value while `cb_range_ok` = 0. -/
def State.cbSet (s : State) : Except Fault Byte :=
  if s.cbRangeOk then
    .ok (setBits s.host.cbByte s.host.cbValue s.host.cbOff.toNat s.host.cbWid.toNat)
  else .error .codecNoValue

/-- What an output port holds (R29): no value on `result` while `RESULT_VALID` = 0 (R21), and none on `cb_get` and
`cb_set` while `cb_range_ok` = 0. -/
def State.portValue (s : State) : OutPort → Except Fault PortRead
  | .cmdReady => .ok (.cmdReady s.cmdReady)
  | .done => .ok (.done s.block.done)
  | .result => s.resultPort.map .result
  | .resultValid => .ok (.resultValid s.block.resultValid)
  | .err => .ok (.err s.block.err)
  | .errInfo => .ok (.errInfo s.block.errInfo)
  | .warn => .ok (.warn s.block.warn)
  | .bcPads => .ok (.bcPads s.block.bcPads)
  | .calPads => .ok (.calPads s.block.calPads)
  | .cpc => .ok (.cpc s.block.cpc)
  | .cbGet => s.cbGet.map .cbGet
  | .cbSet => s.cbSet.map .cbSet
  | .cbRangeOk => .ok (.cbRangeOk s.cbRangeOk)

/-- What the host has read from a port, kept. -/
def State.gotRead (v : PortRead) (s : State) : State :=
  { s with host := { s.host with got := v :: s.host.got } }

/-- The host reads a port (R29): a fault while it holds no value. -/
def readPort (p : OutPort) (s : State) : Host.Outcome State Fault Refusal :=
  match s.portValue p with
  | .ok v => .next (s.gotRead v)
  | .error e => .fault e

/-- The host drives the codec ports' inputs (R29). -/
def driveCodec (byte value : Byte) (off : BitVec 3) (wid : BitVec 4) (s : State) : State :=
  { s with host := { s.host with cbByte := byte, cbValue := value, cbOff := off, cbWid := wid } }

/-- The observation at the end of a run (R277), with `RESULT` only where it is valid. -/
structure Observation where
  phase : Phase
  result : Option Byte
  err : BitVec 4
  errInfo : BitVec 32
  warn : BitVec 3
  bcPads : PadSet
  calPads : PadSet
  cpc : BitVec 32
  commits : List CommitRecord
  bus : List BusEvent
  sreg : Memory
deriving DecidableEq, Repr

/-- R277: what the end of a run shows; `bus` with the host's probes in it (DESIGN CHOICE, log entry 17). -/
def observe (s : State) : Observation :=
  { phase := s.block.phase
    result := if s.block.resultValid then some s.block.result else none
    err := s.block.err, errInfo := s.block.errInfo, warn := s.block.warn
    bcPads := s.block.bcPads, calPads := s.block.calPads, cpc := s.block.cpc
    commits := s.trace.commits, bus := s.trace.bus, sreg := s.sensor.sreg }

/-- R277: the run of a program of `n` words has ended: `CPC` = `n` and `PHASE` = IDLE. DESIGN CHOICE (log entry 19):
the 32-bit `CPC` is compared as a number, so a run of 2^32 words or more never ends in this sense, where R277 says
nothing of such a program. -/
def runEnded (n : Nat) (s : State) : Bool :=
  s.block.cpc.toNat == n && s.cmdReady

end Sys2Proof.Machine
end

