-- ==== Sys2Proof/Machine/Codec.lean ====
section
/-! DEFINITION. The codec commands GETB and SETB (40_codec.md). -/

namespace Sys2Proof.Machine

open Sys2Proof

/-- R113: the accept step's range check. -/
def rangeError (off : BitVec 3) (wid : BitVec 4) : Option Error :=
  if rangeOk off wid then none else some (.fieldRange off wid)

/-- R111: the pseudocode of GETB. -/
def scriptGetb (a : Byte) (off : BitVec 3) (wid : BitVec 4) : Script :=
  .result (getBits a off.toNat wid.toNat)

/-- GETB (R111, R113). -/
def execGetb (a : Byte) (off : BitVec 3) (wid : BitVec 4) (s : State) : Host.Outcome State Fault Refusal :=
  beginCommand (.getb a off wid) (rangeError off wid) (scriptGetb a off wid) s

/-- R112: the pseudocode of SETB; the value is truncated to the width (`VALUE_POLICY` = TRUNCATE). -/
def scriptSetb (a b : Byte) (off : BitVec 3) (wid : BitVec 4) : Script :=
  .result (setBits a b off.toNat wid.toNat)

/-- SETB (R112, R113). -/
def execSetb (a b : Byte) (off : BitVec 3) (wid : BitVec 4) (s : State) : Host.Outcome State Fault Refusal :=
  beginCommand (.setb a b off wid) (rangeError off wid) (scriptSetb a b off wid) s

end Sys2Proof.Machine
end

