-- ==== Sys2Proof/Machine/DeviceControl.lean ====
section
/-! DEFINITION. Device control: BRINGUP, CHKS, RECAL (41_device_control.md). -/

namespace Sys2Proof.Machine

open Sys2Proof

/-- R130: sensitivity x2 (code 6), interrupts on all three pads, then the latch clear. -/
def scriptBringup (p : Platform) : Script :=
  .modify Config.regSensitivity 6 4 3 <|
    .modify Config.regIntEnable 0b111 0 3 <|
      .clearLatch p.latchMode .finish

/-- BRINGUP (R130). -/
def execBringup (s : State) : Host.Outcome State Fault Refusal :=
  beginCommand .bringup none (scriptBringup s.plat) s

/-- R131, the second test of CHKS: the calibration-failed bit of the one general-status read `g`, with the pads `bc`
the first test found. -/
def scriptChksCal (p : Platform) (g bc : Byte) : Script :=
  if getBits g p.gsCalFailBit.val 1 = 1 then
    .read p.regCalStatus fun c =>
      .warn (.calibrationFailed (padsOf c)) (.result (bc ||| getBits c 0 3))
  else .result bc

/-- R131: one general-status read, the base-count test, then the calibration test. -/
def scriptChks (p : Platform) : Script :=
  .read Config.regGeneralStatus fun g =>
    if getBits g p.gsBcOutBit.val 1 = 1 then
      .read p.regBcOut fun b =>
        .warn (.baseCountOut (padsOf b)) (scriptChksCal p g (getBits b 0 3))
    else scriptChksCal p g 0

/-- CHKS (R131). -/
def execChks (s : State) : Host.Outcome State Fault Refusal :=
  beginCommand .chks none (scriptChks s.plat) s

/-- R132: one blind write of `CAL_ALL_CMD`. -/
def scriptRecal (p : Platform) : Script :=
  .write p.regCalActivate Config.calAllCmd .finish

/-- RECAL (R132). -/
def execRecal (s : State) : Host.Outcome State Fault Refusal :=
  beginCommand .recal none (scriptRecal s.plat) s

end Sys2Proof.Machine
end

