-- ==== Sys2Proof/Machine/TouchLatch.lean ====
section
/-! DEFINITION. Pad status and interrupt latch: CLRI, CHKT, GETT, IST, ISPT, ISLS, ISRS (43_touch_latch.md). -/

namespace Sys2Proof.Machine

open Sys2Proof

/-- R176: a query that answers `r` and, iff its answer is positive, first clears the latch. -/
def Script.answer (mode : LatchMode) (positive : Bool) (r : Byte) : Script :=
  if positive then .clearLatch mode (.result r) else .result r

/-- R171. -/
def scriptClri (p : Platform) : Script := .clearLatch p.latchMode .finish

/-- CLRI (R171). -/
def execClri (s : State) : Host.Outcome State Fault Refusal :=
  beginCommand .clri none (scriptClri s.plat) s

/-- R172: the latch is not cleared. -/
def scriptChkt (p : Platform) : Script := .field p.regTouchStatus 0 3

/-- CHKT (R172). -/
def execChkt (s : State) : Host.Outcome State Fault Refusal :=
  beginCommand .chkt none (scriptChkt s.plat) s

/-- R173: the latch is cleared iff the touched set is not empty. -/
def scriptGett (p : Platform) : Script :=
  .read p.regTouchStatus fun b =>
    .answer p.latchMode (getBits b 0 3 != 0) (getBits b 0 3)

/-- GETT (R173). -/
def execGett (s : State) : Host.Outcome State Fault Refusal :=
  beginCommand .gett none (scriptGett s.plat) s

/-- R174: general status bit 0; the latch is cleared iff it is 1. -/
def scriptIst (p : Platform) : Script :=
  .read Config.regGeneralStatus fun g =>
    .answer p.latchMode (getBits g 0 1 == 1) (getBits g 0 1)

/-- IST (R174). -/
def execIst (s : State) : Host.Outcome State Fault Refusal :=
  beginCommand .ist none (scriptIst s.plat) s

/-- R175: the latch is cleared iff the selected pad is touched. -/
def scriptIspt (p : Platform) (pad : PadSet) : Script :=
  .read p.regTouchStatus fun b =>
    .answer p.latchMode ((getBits b 0 3 &&& zext8 pad) != 0) (boolResult ((getBits b 0 3 &&& zext8 pad) != 0))

/-- ISPT (R175). -/
def execIspt (pad : PadSet) (s : State) : Host.Outcome State Fault Refusal :=
  beginCommand (.ispt pad) none (scriptIspt s.plat pad) s

/-- R177: a warning and false, whatever the sensor holds. -/
def scriptIsls : Script := .warn .notImplemented (.result 0x00)

/-- ISLS (R177). -/
def execIsls (s : State) : Host.Outcome State Fault Refusal :=
  beginCommand .isls none scriptIsls s

/-- R178: as R177. -/
def scriptIsrs : Script := .warn .notImplemented (.result 0x00)

/-- ISRS (R178). -/
def execIsrs (s : State) : Host.Outcome State Fault Refusal :=
  beginCommand .isrs none scriptIsrs s

end Sys2Proof.Machine
end

