-- ==== Sys2Proof/Machine/PowerButton.lean ====
section
/-! DEFINITION. The power-button sub-protocol: SPBP, GPBP, SPBT, GPBT, SPBE, GPBE, ISPB (44_power_button.md). -/

namespace Sys2Proof.Machine

open Sys2Proof

/-- R200. -/
def scriptSpbp (pads : PadSet) : Script := .modify Config.regPb (zext8 pads) 0 3 .finish

/-- SPBP (R200). -/
def execSpbp (pads : PadSet) (s : State) : Host.Outcome State Fault Refusal :=
  beginCommand (.spbp pads) none (scriptSpbp pads) s

/-- R201. -/
def scriptGpbp : Script := .field Config.regPb 0 3

/-- GPBP (R201). -/
def execGpbp (s : State) : Host.Outcome State Fault Refusal :=
  beginCommand .gpbp none scriptGpbp s

/-- R202. -/
def scriptSpbt (time : BitVec 2) : Script := .modify Config.regPbConfig (zext8 time) 0 2 .finish

/-- SPBT (R202). -/
def execSpbt (time : BitVec 2) (s : State) : Host.Outcome State Fault Refusal :=
  beginCommand (.spbt time) none (scriptSpbt time) s

/-- R203. -/
def scriptGpbt : Script := .field Config.regPbConfig 0 2

/-- GPBT (R203). -/
def execGpbt (s : State) : Host.Outcome State Fault Refusal :=
  beginCommand .gpbt none scriptGpbt s

/-- R204. -/
def scriptSpbe (on : Bool) : Script := .modify Config.regPbConfig (boolResult on) 2 1 .finish

/-- SPBE (R204). -/
def execSpbe (on : Bool) (s : State) : Host.Outcome State Fault Refusal :=
  beginCommand (.spbe on) none (scriptSpbe on) s

/-- R205. -/
def scriptGpbe : Script := .field Config.regPbConfig 2 1

/-- GPBE (R205). -/
def execGpbe (s : State) : Host.Outcome State Fault Refusal :=
  beginCommand .gpbe none scriptGpbe s

/-- R206: general status bit 4; the latch is cleared iff it is 1. -/
def scriptIspb (p : Platform) : Script :=
  .read Config.regGeneralStatus fun g =>
    .answer p.latchMode (getBits g 4 1 == 1) (getBits g 4 1)

/-- ISPB (R206). -/
def execIspb (s : State) : Host.Outcome State Fault Refusal :=
  beginCommand .ispb none (scriptIspb s.plat) s

end Sys2Proof.Machine
end

