-- ==== Sys2Proof/Machine/SensitivityInterrupt.lean ====
section
/-! DEFINITION. Sensitivity and interrupt enable: SSENS, GSENS, SIEP, SIEA, GIE (42_sensitivity_interrupt_enable.md). -/

namespace Sys2Proof.Machine

open Sys2Proof

/-- R150. -/
def scriptSsens (level : BitVec 3) : Script :=
  .modify Config.regSensitivity (zext8 level) 4 3 .finish

/-- SSENS (R150). -/
def execSsens (level : BitVec 3) (s : State) : Host.Outcome State Fault Refusal :=
  beginCommand (.ssens level) none (scriptSsens level) s

/-- R151. -/
def scriptGsens : Script := .field Config.regSensitivity 4 3

/-- GSENS (R151). -/
def execGsens (s : State) : Host.Outcome State Fault Refusal :=
  beginCommand .gsens none scriptGsens s

/-- R152: the field is replaced, not merged. -/
def scriptSiep (pads : PadSet) : Script :=
  .modify Config.regIntEnable (zext8 pads) 0 3 .finish

/-- SIEP (R152). -/
def execSiep (pads : PadSet) (s : State) : Host.Outcome State Fault Refusal :=
  beginCommand (.siep pads) none (scriptSiep pads) s

/-- R153: `v <- (B == 0x01) ? 0b111 : 0b000`. -/
def scriptSiea (on : Bool) : Script :=
  .modify Config.regIntEnable (if on then 0b111 else 0b000) 0 3 .finish

/-- SIEA (R153). -/
def execSiea (on : Bool) (s : State) : Host.Outcome State Fault Refusal :=
  beginCommand (.siea on) none (scriptSiea on) s

/-- R154. -/
def scriptGie : Script := .field Config.regIntEnable 0 3

/-- GIE (R154). -/
def execGie (s : State) : Host.Outcome State Fault Refusal :=
  beginCommand .gie none scriptGie s

end Sys2Proof.Machine
end

