-- ==== Sys2Proof/Machine/Dispatch.lean ====
section
/-! DEFINITION. The dispatch of a command to its meaning, one arm per row of the opcode table (R82). -/

namespace Sys2Proof.Machine

open Sys2Proof

def exec (i : Instr) (s : State) : Host.Outcome State Fault Refusal :=
  match i with
  | .getb a off wid => Sys2Proof.Machine.execGetb a off wid s
  | .setb a b off wid => Sys2Proof.Machine.execSetb a b off wid s
  | .bringup => Sys2Proof.Machine.execBringup s
  | .chks => Sys2Proof.Machine.execChks s
  | .recal => Sys2Proof.Machine.execRecal s
  | .ssens level => Sys2Proof.Machine.execSsens level s
  | .gsens => Sys2Proof.Machine.execGsens s
  | .siep pads => Sys2Proof.Machine.execSiep pads s
  | .siea on => Sys2Proof.Machine.execSiea on s
  | .gie => Sys2Proof.Machine.execGie s
  | .clri => Sys2Proof.Machine.execClri s
  | .chkt => Sys2Proof.Machine.execChkt s
  | .gett => Sys2Proof.Machine.execGett s
  | .ist => Sys2Proof.Machine.execIst s
  | .ispt pad => Sys2Proof.Machine.execIspt pad s
  | .isls => Sys2Proof.Machine.execIsls s
  | .isrs => Sys2Proof.Machine.execIsrs s
  | .spbp pads => Sys2Proof.Machine.execSpbp pads s
  | .gpbp => Sys2Proof.Machine.execGpbp s
  | .spbt time => Sys2Proof.Machine.execSpbt time s
  | .gpbt => Sys2Proof.Machine.execGpbt s
  | .spbe on => Sys2Proof.Machine.execSpbe on s
  | .gpbe => Sys2Proof.Machine.execGpbe s
  | .ispb => Sys2Proof.Machine.execIspb s

end Sys2Proof.Machine
end

