-- ==== Sys2Proof/Machine/Sequencer.lean ====
section
/-! DEFINITION. The sequencer at the grain of R26: the pseudocode each command runs, and one block step of a BUSY
block. -/

namespace Sys2Proof.Machine

open Sys2Proof

/-- The pseudocode of each command (files 40 to 44), after the accept step's check. -/
def scriptOf (p : Platform) : Instr → Script
  | .getb a off wid => scriptGetb a off wid
  | .setb a b off wid => scriptSetb a b off wid
  | .bringup => scriptBringup p
  | .chks => scriptChks p
  | .recal => scriptRecal p
  | .ssens level => scriptSsens level
  | .gsens => scriptGsens
  | .siep pads => scriptSiep pads
  | .siea on => scriptSiea on
  | .gie => scriptGie
  | .clri => scriptClri p
  | .chkt => scriptChkt p
  | .gett => scriptGett p
  | .ist => scriptIst p
  | .ispt pad => scriptIspt p pad
  | .isls => scriptIsls
  | .isrs => scriptIsrs
  | .spbp pads => scriptSpbp pads
  | .gpbp => scriptGpbp
  | .spbt time => scriptSpbt time
  | .gpbt => scriptGpbt
  | .spbe on => scriptSpbe on
  | .gpbe => scriptGpbe
  | .ispb => scriptIspb p

/-- The accept step's own check (R26, R113): only the codec commands have one. -/
def acceptCheck : Instr → Option Error
  | .getb _ off wid => rangeError off wid
  | .setb _ _ off wid => rangeError off wid
  | .bringup => none
  | .chks => none
  | .recal => none
  | .ssens _ => none
  | .gsens => none
  | .siep _ => none
  | .siea _ => none
  | .gie => none
  | .clri => none
  | .chkt => none
  | .gett => none
  | .ist => none
  | .ispt _ => none
  | .isls => none
  | .isrs => none
  | .spbp _ => none
  | .gpbp => none
  | .spbt _ => none
  | .gpbt => none
  | .spbe _ => none
  | .gpbe => none
  | .ispb => none

/-- One block step (R26): a BUSY block takes its next transaction or its commit; an IDLE block has none. -/
def blockStep (s : State) : State :=
  match s.block.phase with
  | .idle => s
  | .busy op k locals => scriptStep op k locals ((scriptOf s.plat op).resume k locals) s

/-- `n` block steps. -/
def blockSteps : Nat → State → State
  | 0, s => s
  | n + 1, s => blockSteps n (blockStep s)

end Sys2Proof.Machine
end

