-- ==== Sys2Proof/Machine/Turn.lean ====
section
/-! DEFINITION. Whose turn a step is and what it does: in IDLE the host's next move (R7, R26, R267), or none; in BUSY a
block step, or a move of the host on the ports (R29). -/

namespace Sys2Proof.Machine

open Sys2Proof

/-- The host's next move is made. -/
def State.popMove (s : State) : State :=
  { s with host := { s.host with moves := s.host.moves.tail } }

/-- R26: the block accepts the word on `cmd`: a command runs, an ILLEGAL word raises IllegalCommand (R231). -/
def acceptWord (w : CmdWord) (s : State) : Host.Outcome State Fault Refusal :=
  match decode w with
  | .ok i => exec i s
  | .error _ => .next (acceptIllegal w s)

/-- Nothing is presented: the block waits in IDLE (R261) while sensor steps happen and a reset may be asserted. -/
def waitStep (s : State) : State := s.idleArrive

/-- One move of the host. Each takes a slot, so sensor steps and a block reset may fall just before it (R26, R260). -/
def hostMove (m : HostMove) (s : State) : Host.Outcome State Fault Refusal :=
  match m with
  | .present w => acceptWord w s
  | .connect addr hasTransport => .next (connectStart addr hasTransport s.idleArrive)
  | .readPort p => readPort p s.idleArrive
  | .driveCodec byte value off wid => .next (driveCodec byte value off wid s.idleArrive)

/-- The host's moves while no connect is in progress. -/
def hostTurn (s : State) : Host.Outcome State Fault Refusal :=
  match s.host.moves with
  | [] => .next (waitStep s)
  | m :: _ => hostMove m s.popMove

/-- The step of the machine while the block is IDLE: a connect in progress goes on (R264, R265), else the host's next
move. A word is accepted exactly where `State.cmd` shows one. -/
def idleTurn (s : State) : Host.Outcome State Fault Refusal :=
  match s.host.boot with
  | .probing made => .next (probeStep made s)
  | .issue => acceptWord bringupWord (awaitBringup s)
  | .await => .next (concludeBoot s)
  | .off => hostTurn s
  | .ready => hostTurn s
  | .failed _ _ => hostTurn s

/-- A move on the ports, which the host may also make while the block is BUSY (R29). -/
def HostMove.onPorts : HostMove → Bool
  | .present _ => false
  | .connect _ _ => false
  | .readPort _ => true
  | .driveCodec _ _ _ _ => true

/-- A connect is in progress (R262 to R265). -/
def Boot.connecting : Boot → Bool
  | .off => false
  | .probing _ => true
  | .issue => true
  | .await => true
  | .ready => false
  | .failed _ _ => false

/-- While the block is BUSY, this turn is the host's: its next move is on the ports, no connect is in progress, the
slot gives the host the turn, and no block reset falls in it (log entry 12). -/
def State.hostActs (s : State) : Bool :=
  s.env.next.host && !s.env.next.reset && !s.host.boot.connecting && s.host.moves.head?.any HostMove.onPorts

/-- The step of the machine while the block is BUSY: a port move of the host, or a block step (R26). -/
def busyTurn (s : State) : Host.Outcome State Fault Refusal :=
  if s.hostActs then hostTurn s else .next (blockStep s)

/-- No connect is in progress: the one that is, if any, is given up. -/
def Boot.settled : Boot → Boot
  | .off => .off
  | .probing _ => .off
  | .issue => .off
  | .await => .off
  | .ready => .ready
  | .failed c i => .failed c i

/-- The state in which the host presents `w` next (R27, R267): the block IDLE, no connect in progress, the word first
among the host's moves. -/
def State.presenting (w : CmdWord) (s : State) : State :=
  { s with
    block := { s.block with phase := .idle }
    host := { s.host with boot := s.host.boot.settled, moves := .present w :: s.host.moves } }

end Sys2Proof.Machine
end

