-- ==== Sys2Proof/Machine/Step.lean ====
section
/-! DEFINITION. One step of the machine: a block step or a port move of the host while the block is BUSY (R26, R29), else the
host's turn. -/

namespace Sys2Proof.Machine

open Sys2Proof

/-- One step. -/
def step (s : State) : Host.Outcome State Fault Refusal :=
  match s.block.phase with
  | .busy _ _ _ => busyTurn s
  | .idle => idleTurn s

/-- The state in which the next step accepts the word `w` of `nbits` bits (log entry 8). -/
def State.withFetchWord (s : State) (nbits w : Nat) : State :=
  s.presenting (BitVec.ofNat 32 (w % 2 ^ nbits))

end Sys2Proof.Machine
end

