-- ==== Sys2Proof/Machine/Assembler.lean ====
section
/-! DEFINITION. The assembler of R93 and the pseudo-instructions of R94: a line as text, as a form with its operands,
and as a command word. -/

namespace Sys2Proof.Machine

open Sys2Proof

/-- A `pads` operand: a braced list of pads, or a number 0 to 7 (R93). -/
inductive PadArg where
  | pads (ps : List Pad)
  | mask (n : Nat)
deriving DecidableEq, Repr

/-- The mnemonics that stand alone (R93, "others"). -/
inductive PlainOp where
  | bringup
  | chks
  | recal
  | gsens
  | gie
  | clri
  | chkt
  | gett
  | ist
  | isls
  | isrs
  | gpbp
  | gpbt
  | gpbe
  | ispb
deriving DecidableEq, Repr

/-- One assembler line (R93), and the pseudo-instructions of R94. -/
inductive AsmLine where
  | getb (byte off wid : Nat)
  | setb (byte value off wid : Nat)
  /-- `SSENS x<m>` -/
  | ssensBy (multiplier : Nat)
  /-- `SSENS #<code>` -/
  | ssensCode (code : Nat)
  | siep (pads : PadArg)
  | siea (on : Bool)
  | ispt (pad : Pad)
  | spbp (pads : PadArg)
  /-- `SPBT <ms>ms` -/
  | spbt (ms : Nat)
  | spbe (on : Bool)
  | plain (op : PlainOp)
  /-- `SIE pads` -/
  | siePads (pads : PadArg)
  /-- `SIE true`, `SIE false` -/
  | sieBool (on : Bool)
  /-- `SPB pads` -/
  | spbPads (pads : PadArg)
  /-- `SPB true`, `SPB false` -/
  | spbBool (on : Bool)
  | islt
  | ismt
  | isrt
  | reset
deriving DecidableEq, Repr

/-- R94: the line a pseudo-instruction stands for. -/
def AsmLine.expand : AsmLine → AsmLine
  | .siePads p => .siep p
  | .sieBool b => .siea b
  | .spbPads p => .spbp p
  | .spbBool b => .spbe b
  | .islt => .ispt .left
  | .ismt => .ispt .middle
  | .isrt => .ispt .right
  | .reset => .plain .recal
  | line => line

/-- A pad operand's mask; a number above 7 does not fit (R93). -/
def PadArg.value : PadArg → Option PadSet
  | .pads ps => some (PadSet.ofList ps)
  | .mask n => if n ≤ 7 then some (BitVec.ofNat 3 n) else none

/-- R88: the code of a multiplier, where it is one of the eight levels. -/
def levelOf (m : Nat) : Option (BitVec 3) :=
  [0, 1, 2, 3, 4, 5, 6, 7].find? fun c : BitVec 3 => multiplier c == m

/-- R89: the code of a hold duration, where it is one of the four. -/
def timeOf (ms : Nat) : Option (BitVec 2) :=
  [0, 1, 2, 3].find? fun c : BitVec 2 => holdMs c == ms

/-- The command of a mnemonic that stands alone. -/
def PlainOp.instr : PlainOp → Instr
  | .bringup => .bringup
  | .chks => .chks
  | .recal => .recal
  | .gsens => .gsens
  | .gie => .gie
  | .clri => .clri
  | .chkt => .chkt
  | .gett => .gett
  | .ist => .ist
  | .isls => .isls
  | .isrs => .isrs
  | .gpbp => .gpbp
  | .gpbt => .gpbt
  | .gpbe => .gpbe
  | .ispb => .ispb

/-- R93: the command of a line that is no pseudo-instruction; `none` is an assembly error. -/
def AsmLine.core : AsmLine → Option Instr
  | .getb byte off wid =>
    if byte ≤ 0xFF ∧ off ≤ 7 ∧ wid ≤ 15 then
      some (.getb (BitVec.ofNat 8 byte) (BitVec.ofNat 3 off) (BitVec.ofNat 4 wid))
    else none
  | .setb byte value off wid =>
    if byte ≤ 0xFF ∧ value ≤ 0xFF ∧ off ≤ 7 ∧ wid ≤ 15 then
      some (.setb (BitVec.ofNat 8 byte) (BitVec.ofNat 8 value) (BitVec.ofNat 3 off) (BitVec.ofNat 4 wid))
    else none
  | .ssensBy m => (levelOf m).map .ssens
  | .ssensCode c => if c ≤ 7 then some (.ssens (BitVec.ofNat 3 c)) else none
  | .siep p => p.value.map .siep
  | .siea b => some (.siea b)
  | .ispt pad => some (.ispt pad.bit)
  | .spbp p => p.value.map .spbp
  | .spbt ms => (timeOf ms).map .spbt
  | .spbe b => some (.spbe b)
  | .plain op => some op.instr
  | _ => none

/-- R93, R94: the command of any line. -/
def AsmLine.instr (line : AsmLine) : Option Instr := line.expand.core

/-- R93, R94: the word of any line; `none` is an assembly error. -/
def assemble (line : AsmLine) : Option CmdWord := line.instr.map encode

/-! ### The text of a line -/

/-- A digit's value in hex. -/
def digitVal (c : Char) : Option Nat :=
  if '0' ≤ c ∧ c ≤ '9' then some (c.toNat - 48)
  else if 'A' ≤ c ∧ c ≤ 'F' then some (c.toNat - 55)
  else if 'a' ≤ c ∧ c ≤ 'f' then some (c.toNat - 87)
  else none

/-- Digits in a base, after those already read. -/
def digitsFrom (base : Nat) : Nat → List Char → Option Nat
  | n, [] => some n
  | n, c :: cs =>
    match digitVal c with
    | some d => if d < base then digitsFrom base (n * base + d) cs else none
    | none => none

/-- At least one digit. -/
def digits (base : Nat) (cs : List Char) : Option Nat :=
  if cs = [] then none else digitsFrom base 0 cs

/-- R93: `0x..`, `0b..` or decimal. -/
def parseNumber : List Char → Option Nat
  | '0' :: 'x' :: cs => digits 16 cs
  | '0' :: 'b' :: cs => digits 2 cs
  | cs => digits 10 cs

/-- The opening and the closing brace. -/
def braces : Char × Char := (Char.ofNat 123, Char.ofNat 125)

/-- Operands at the commas outside braces; `cur` is the current operand's text, reversed. -/
def splitOperands : List Char → Bool → List Char → List (List Char)
  | cur, _, [] => [cur.reverse]
  | cur, inside, c :: cs =>
    if c = ',' ∧ !inside then cur.reverse :: splitOperands [] inside cs
    else splitOperands (c :: cur) (if c = braces.1 then true else if c = braces.2 then false else inside) cs

/-- R93: a pad's letter. -/
def parsePad : List Char → Option Pad
  | ['L'] => some .left
  | ['M'] => some .middle
  | ['R'] => some .right
  | _ => none

/-- The pads of a braced list's inside. -/
def parsePadList (cs : List Char) : Option (List Pad) :=
  if cs = [] then some [] else (splitOperands [] false cs).mapM parsePad

/-- R93: a `pads` operand. -/
def parsePads (cs : List Char) : Option PadArg :=
  match cs with
  | [] => none
  | c :: rest =>
    if c = braces.1 then
      if rest.getLast? = some braces.2 then (parsePadList rest.dropLast).map .pads else none
    else (parseNumber cs).map .mask

/-- R93: `true` or `false`. -/
def parseBool : List Char → Option Bool
  | ['t', 'r', 'u', 'e'] => some true
  | ['f', 'a', 'l', 's', 'e'] => some false
  | _ => none

/-- R93: a `level` operand. -/
def parseLevel : List Char → Option AsmLine
  | 'x' :: cs => (digits 10 cs).map .ssensBy
  | '#' :: cs => (parseNumber cs).map .ssensCode
  | _ => none

/-- R93: a hold duration. -/
def parseMs (cs : List Char) : Option Nat :=
  match cs.reverse with
  | 's' :: 'm' :: rest => digits 10 rest.reverse
  | _ => none

/-- The mnemonics that stand alone, with the pseudo-instructions among them. -/
def parseAlone : List Char → Option AsmLine
  | ['B', 'R', 'I', 'N', 'G', 'U', 'P'] => some (.plain .bringup)
  | ['C', 'H', 'K', 'S'] => some (.plain .chks)
  | ['R', 'E', 'C', 'A', 'L'] => some (.plain .recal)
  | ['G', 'S', 'E', 'N', 'S'] => some (.plain .gsens)
  | ['G', 'I', 'E'] => some (.plain .gie)
  | ['C', 'L', 'R', 'I'] => some (.plain .clri)
  | ['C', 'H', 'K', 'T'] => some (.plain .chkt)
  | ['G', 'E', 'T', 'T'] => some (.plain .gett)
  | ['I', 'S', 'T'] => some (.plain .ist)
  | ['I', 'S', 'L', 'S'] => some (.plain .isls)
  | ['I', 'S', 'R', 'S'] => some (.plain .isrs)
  | ['G', 'P', 'B', 'P'] => some (.plain .gpbp)
  | ['G', 'P', 'B', 'T'] => some (.plain .gpbt)
  | ['G', 'P', 'B', 'E'] => some (.plain .gpbe)
  | ['I', 'S', 'P', 'B'] => some (.plain .ispb)
  | ['I', 'S', 'L', 'T'] => some .islt
  | ['I', 'S', 'M', 'T'] => some .ismt
  | ['I', 'S', 'R', 'T'] => some .isrt
  | ['R', 'E', 'S', 'E', 'T'] => some .reset
  | _ => none

/-- A dual-typed operand: a boolean, or a pad set (R94). -/
def parseDual (onBool : Bool → AsmLine) (onPads : PadArg → AsmLine) (x : List Char) : Option AsmLine :=
  match parseBool x with
  | some b => some (onBool b)
  | none => (parsePads x).map onPads

/-- A mnemonic with one operand (R93, R94). -/
def parseOne (m x : List Char) : Option AsmLine :=
  match m with
  | ['S', 'S', 'E', 'N', 'S'] => parseLevel x
  | ['S', 'I', 'E', 'P'] => (parsePads x).map .siep
  | ['S', 'I', 'E', 'A'] => (parseBool x).map .siea
  | ['I', 'S', 'P', 'T'] => (parsePad x).map .ispt
  | ['S', 'P', 'B', 'P'] => (parsePads x).map .spbp
  | ['S', 'P', 'B', 'T'] => (parseMs x).map .spbt
  | ['S', 'P', 'B', 'E'] => (parseBool x).map .spbe
  | ['S', 'I', 'E'] => parseDual .sieBool .siePads x
  | ['S', 'P', 'B'] => parseDual .spbBool .spbPads x
  | _ => none

/-- R93: a mnemonic and its operands. -/
def parseForm (m : List Char) (operands : List (List Char)) : Option AsmLine :=
  match operands with
  | [[]] => parseAlone m
  | [x] => parseOne m x
  | [x, y, z] =>
    if m = ['G', 'E', 'T', 'B'] then
      match parseNumber x, parseNumber y, parseNumber z with
      | some b, some o, some w => some (.getb b o w)
      | _, _, _ => none
    else none
  | [x, v, y, z] =>
    if m = ['S', 'E', 'T', 'B'] then
      match parseNumber x, parseNumber v, parseNumber y, parseNumber z with
      | some b, some val, some o, some w => some (.setb b val o w)
      | _, _, _, _ => none
    else none
  | _ => none

/-- R93: "A line has a mnemonic, then its operands separated by commas." DESIGN CHOICE (log entry 15): R93 says nothing of
spaces; the model skips those before the mnemonic, ends the mnemonic at the first one after it, and drops every later
one, inside an operand too, so `GETB 0xA 5, 4, 3` is read as `GETB 0xA5, 4, 3`. -/
def parseLine (cs : List Char) : Option AsmLine :=
  let line := cs.dropWhile (· == ' ')
  parseForm (line.takeWhile (· != ' '))
    (splitOperands [] false ((line.dropWhile (· != ' ')).filter (· != ' ')))

/-- R93, R94: the word of a line of text; `none` is an assembly error. -/
def assembleText (cs : List Char) : Option CmdWord := (parseLine cs).bind assemble

end Sys2Proof.Machine
end

