-- ==== Sys2Proof/Safety.lean ====
section
/-! DEFINITION. The terms in which claims are stated: which runs of a command meet no failure, what a completed and a
failed command leave, the invariant of the block, and which transactions the block may issue. -/

namespace Sys2Proof.Machine

open Sys2Proof

/-- The step answers a next state. -/
def goesOn : Host.Outcome State Fault Refusal → Bool
  | .next _ => true
  | .fault _ => false
  | .refused _ => false

/-- `n` steps, each with a next state, lead from `s` to `t`. -/
def StepsTo : Nat → State → State → Prop
  | 0, s, t => s = t
  | n + 1, s, t => ∃ u, step s = .next u ∧ StepsTo n u t

/-! ### The environment of a command -/

/-- The transport answers `ok = 1` to a transaction of this kind (R52, R53). -/
def replyOk : BusKind → Reply → Bool
  | .rd, r => readOk r
  | .wr, r => writeOk r

/-- From slot `n` on: these transactions succeed, and no block reset falls before them. -/
def answersFrom (e : Env) : Nat → List BusKind → Bool
  | _, [] => true
  | n, k :: ks => !(e.slotAt n).reset && replyOk k (e.slotAt n).reply && answersFrom e (n + 1) ks

/-- A command can be accepted (R26), is run whole (log entry 6), and no reset falls before the accept. -/
def accepting (s : State) : Bool :=
  s.cmdReady && s.env.grain == .command && !(s.env.slotAt 0).reset

/-- The command is accepted, its transactions `ks` succeed, and no block reset falls in it: the conditions under which
a command with these transactions completes. Sensor steps may fall anywhere. -/
def runsWell (s : State) (ks : List BusKind) : Bool :=
  accepting s && answersFrom s.env 1 ks && !(s.env.slotAt (ks.length + 1)).reset

/-- The command is accepted, its first transactions `ks` succeed, and the next one, of kind `k`, fails (R54, R55). -/
def failsAt (s : State) (ks : List BusKind) (k : BusKind) : Bool :=
  accepting s && answersFrom s.env 1 ks && !(s.env.slotAt (ks.length + 1)).reset
    && !replyOk k (s.env.slotAt (ks.length + 1)).reply

/-- No block reset falls before any of the next `n` block steps. -/
def noReset (s : State) (n : Nat) : Bool :=
  (List.range n).all fun j => !(s.env.slotAt j).reset

/-- No sensor step falls before any of the next `n` block steps. -/
def quiet (s : State) (n : Nat) : Bool :=
  (List.range n).all fun j => (s.env.slotAt j).sensor == []

/-- More block steps than any command takes: one accept, at most 6 transactions, one commit (R276). -/
def longest : Nat := 8

/-- What a register holds when the `n`-th coming block step reads it, the sensor steps before it done and no store of
the block between (R52). -/
def seenAt (s : State) (n : Nat) (a : Byte) : Byte := (s.arriveN (n + 1)).sensor.reg a

/-! ### What a command leaves -/

/-- The block after a command that took no error: R26 `complete(r)` (`some r`) or `complete()` (`none`), with the
warnings and pad registers it set, and the transactions it issued, newest first. The host, the parameters and the
grain are as before. -/
structure Completes (s t : State) (r : Option Byte) (w : BitVec 3) (bc cal : PadSet)
    (bus : List BusEvent) : Prop where
  phase : t.block.phase = .idle
  cpc : t.block.cpc = s.block.cpc + 1
  err : t.block.err = 0
  errInfo : t.block.errInfo = 0
  resultValid : t.block.resultValid = r.isSome
  result : t.block.result = r.getD s.block.result
  warn : t.block.warn = w
  bcPads : t.block.bcPads = bc
  calPads : t.block.calPads = cal
  bus : t.trace.bus = bus ++ s.trace.bus
  commits : t.trace.commits =
    { result := r, err := 0, errInfo := 0, warn := w, bcPads := bc, calPads := cal } :: s.trace.commits
  host : t.host = s.host
  plat : t.plat = s.plat
  grain : t.env.grain = s.env.grain

/-- The block after a command that ended with an error (R238): no result, the error recorded, `CPC` advanced. -/
structure Fails (s t : State) (e : Error) (w : BitVec 3) (bc cal : PadSet)
    (bus : List BusEvent) : Prop where
  phase : t.block.phase = .idle
  cpc : t.block.cpc = s.block.cpc + 1
  err : t.block.err = e.code
  errInfo : t.block.errInfo = e.info
  resultValid : t.block.resultValid = false
  result : t.block.result = s.block.result
  warn : t.block.warn = w
  bcPads : t.block.bcPads = bc
  calPads : t.block.calPads = cal
  bus : t.trace.bus = bus ++ s.trace.bus
  commits : t.trace.commits =
    { result := none, err := e.code, errInfo := e.info, warn := w, bcPads := bc, calPads := cal }
      :: s.trace.commits
  host : t.host = s.host
  plat : t.plat = s.plat
  grain : t.env.grain = s.env.grain

/-- A read of register `a` that returned `v` (R52). -/
def readOf (a v : Byte) : BusEvent := .read Config.devAddr a (some v)

/-- A write of `v` to register `a` with `ok = 1` (R53). -/
def writeOf (a v : Byte) : BusEvent := .write Config.devAddr a v true

/-! ### The invariant -/

/-- What the block registers always satisfy: no detail without its warning bit (R25), no info without an error (R47),
a result only without an error and only outside a command (R22), the block's own error codes only (R230), and no
error or result while BUSY (R26). -/
structure BlockInv (b : Block) : Prop where
  info : b.err = 0 → b.errInfo = 0
  valid : b.resultValid = true → b.err = 0 ∧ b.phase = .idle
  codes : b.err.toNat ≤ 3
  bc : b.warn.getLsbD 0 = false → b.bcPads = 0
  cal : b.warn.getLsbD 1 = false → b.calPads = 0
  busy : b.phase ≠ .idle → b.err = 0 ∧ b.done = false

/-- The invariant of the machine: the block registers', the canonical form of `SREG`, and R8's constraints. -/
structure Inv (s : State) : Prop where
  block : BlockInv s.block
  sreg : s.sensor.sreg.wf = true
  plat : s.plat.ok = true

/-! ### Which transactions the block may issue -/

/-- The registers the block reads (R51, R31, R40): main control only in `RMW` mode, calibration activate only where it
is also calibration status. -/
def mayRead (p : Platform) (a : Byte) : Bool :=
  (p.latchMode == .rmw && a == Config.regMainControl)
    || [Config.regGeneralStatus, Config.regSensitivity, Config.regIntEnable, Config.regPb, Config.regPbConfig,
        p.regTouchStatus, p.regBcOut, p.regCalStatus].contains a

/-- The writes the block issues (R68): configuration registers, main control with bit 0 = 0 (and, in `BLIND_ZERO` mode,
every bit 0), and 0x07 to calibration activate. -/
def mayWrite (p : Platform) (a v : Byte) : Bool :=
  [Config.regSensitivity, Config.regIntEnable, Config.regPb, Config.regPbConfig].contains a
    || (a == Config.regMainControl && !v.getLsbD 0 && (p.latchMode == .rmw || v == 0))
    || (a == p.regCalActivate && v == Config.calAllCmd)

/-- A transaction the rules allow (R51, R56, R68), at the one device address (R50). -/
def legalEvent (p : Platform) : BusEvent → Bool
  | .read dev a _ => dev == Config.devAddr && mayRead p a
  | .write dev a v _ => dev == Config.devAddr && mayWrite p a v
  | .probe dev _ => dev == Config.devAddr

/-- A write request that puts 0 into bit 0 of main control, whatever its answer (R60, R55). -/
def clearsLatch : BusEvent → Bool
  | .write _ a v _ => a == Config.regMainControl && !v.getLsbD 0
  | .read _ _ _ => false
  | .probe _ _ => false

/-- The transaction got `ok = 1`. -/
def eventOk : BusEvent → Bool
  | .read _ _ d => d.isSome
  | .write _ _ _ ok => ok
  | .probe _ ok => ok

/-- The TransportError that names a transaction (R54, R55). -/
def eventError : BusEvent → Error
  | .read _ a _ => .transportError .rd a
  | .write _ a _ _ => .transportError .wr a
  | .probe _ _ => .notConnected

/-- The registers each command can store to: for the configuration setters the register of the field, for the latch
clears main control (R170), for RECAL calibration activate (R132), for BRINGUP its three (R130). -/
def storedRegs (p : Platform) : Instr → List Byte
  | .getb _ _ _ => []
  | .setb _ _ _ _ => []
  | .bringup => [Config.regSensitivity, Config.regIntEnable, Config.regMainControl]
  | .chks => []
  | .recal => [p.regCalActivate]
  | .ssens _ => [Config.regSensitivity]
  | .gsens => []
  | .siep _ => [Config.regIntEnable]
  | .siea _ => [Config.regIntEnable]
  | .gie => []
  | .clri => [Config.regMainControl]
  | .chkt => []
  | .gett => [Config.regMainControl]
  | .ist => [Config.regMainControl]
  | .ispt _ => [Config.regMainControl]
  | .isls => []
  | .isrs => []
  | .spbp _ => [Config.regPb]
  | .gpbp => []
  | .spbt _ => [Config.regPbConfig]
  | .gpbt => []
  | .spbe _ => [Config.regPbConfig]
  | .gpbe => []
  | .ispb => [Config.regMainControl]

/-- A register that no sensor step changes, main control apart: a configuration register (R42, R67), or one that no rule
names, which a sensor step leaves by the model's choice (log entry 20). -/
def sensorLeaves (p : Platform) (a : Byte) : Bool :=
  !([Config.regMainControl, Config.regGeneralStatus, p.regTouchStatus, p.regBcOut, p.regCalStatus,
    p.regCalActivate].contains a)

end Sys2Proof.Machine
end

