-- ==== Sys2Proof/Certificates/Slice0/Obligations.lean ====
section
/-! DEFINITION. The statements about the model, from the spec's numbered rules. The shapes shared by several commands
come first; each obligation names the rules it formalises. -/

namespace Sys2Proof.Claims

open Sys2Proof Sys2Proof.Machine

/-! ### Words -/

/-- A command with no operand has one word; every other word of its opcode is ILLEGAL (R82, R83). -/
def PlainWord (i : Instr) (word : CmdWord) : Prop :=
  decode word = .ok i ∧
    ∀ w : CmdWord, w.extractLsb' 24 8 = word.extractLsb' 24 8 → w ≠ word → illegal w = true

/-- A command with the typed argument `B` has the words `OPC ++ 0x00 ++ B ++ 0x00` with `B` legal; every other word of
its opcode is ILLEGAL (R82, R83). -/
def TypedWord {α : Type} (opc : Byte) (arg : α → Byte) (mk : α → Instr) : Prop :=
  (∀ x, decode (opc ++ 0x00#8 ++ arg x ++ 0x00#8) = .ok (mk x)) ∧
    ∀ w : CmdWord, w.extractLsb' 24 8 = opc → (∀ x, w ≠ opc ++ 0x00#8 ++ arg x ++ 0x00#8) → illegal w = true

/-- R82's row of an opcode: whether A, B, OFF and WID must be 0, and the legal values of B; `none` for an unassigned
opcode (R84). -/
structure TableRow where
  zeroA : Bool
  zeroB : Bool
  zeroOffWid : Bool
  legalB : List Byte
deriving DecidableEq, Repr

/-- R82, column by column; `legalB` is empty for "any". -/
def tableRow (opc : Byte) : Option TableRow :=
  if opc = 0x01 then some ⟨false, true, false, [0x00]⟩
  else if opc = 0x02 then some ⟨false, false, false, []⟩
  else if opc ∈ [0x20#8, 0x22#8, 0x40#8] then
    some ⟨true, false, true, [0x00, 0x01, 0x02, 0x03, 0x04, 0x05, 0x06, 0x07]⟩
  else if opc ∈ [0x23#8, 0x44#8] then some ⟨true, false, true, [0x00, 0x01]⟩
  else if opc = 0x34 then some ⟨true, false, true, [0x01, 0x02, 0x04]⟩
  else if opc = 0x42 then some ⟨true, false, true, [0x00, 0x01, 0x02, 0x03]⟩
  else if opc ∈ [0x10#8, 0x11#8, 0x12#8, 0x21#8, 0x24#8, 0x30#8, 0x31#8, 0x32#8, 0x33#8, 0x35#8, 0x36#8, 0x41#8,
      0x43#8, 0x45#8, 0x46#8] then some ⟨true, true, true, [0x00]⟩
  else none

/-- R83: a field listed as "zero" is not 0, or `B` is not among the legal values. -/
def breaksRow (w : CmdWord) (r : TableRow) : Prop :=
  (r.zeroA = true ∧ w.extractLsb' 16 8 ≠ 0) ∨ (r.zeroB = true ∧ w.extractLsb' 8 8 ≠ 0) ∨
    (r.zeroOffWid = true ∧ w.extractLsb' 1 7 ≠ 0) ∨ w.extractLsb' 0 1 ≠ 0 ∨
    (r.legalB ≠ [] ∧ w.extractLsb' 8 8 ∉ r.legalB)

/-! ### Assembler lines -/

/-- R93: the byte `B` of a braced list of pads, bit by bit. -/
def padByte (ps : List Pad) : Byte :=
  (if .left ∈ ps then 0x01 else 0x00) ||| (if .middle ∈ ps then 0x02 else 0x00) |||
    (if .right ∈ ps then 0x04 else 0x00)

/-- R93, R94: a line with a `pads` operand has the words `opc ++ 0x00 ++ B ++ 0x00`, `B` the mask, and a number above 7
is an assembly error. -/
def PadsLine (opc : Byte) (line : PadArg → AsmLine) : Prop :=
  (∀ ps, assemble (line (.pads ps)) = some (opc ++ 0x00#8 ++ padByte ps ++ 0x00#8)) ∧
    (∀ n, n ≤ 7 → assemble (line (.mask n)) = some (opc ++ 0x00#8 ++ BitVec.ofNat 8 n ++ 0x00#8)) ∧
    ∀ n, 7 < n → assemble (line (.mask n)) = none

/-- R93: the mnemonics that stand alone, with their words. -/
def plainWords : List (PlainOp × CmdWord) :=
  [(.bringup, 0x10000000), (.chks, 0x11000000), (.recal, 0x12000000), (.gsens, 0x21000000), (.gie, 0x24000000),
    (.clri, 0x30000000), (.chkt, 0x31000000), (.gett, 0x32000000), (.ist, 0x33000000), (.isls, 0x35000000),
    (.isrs, 0x36000000), (.gpbp, 0x41000000), (.gpbt, 0x43000000), (.gpbe, 0x45000000), (.ispb, 0x46000000)]

/-- A line of text: a mnemonic and a braced list of pads. -/
def bracedLine (mnemonic pads : String) : List Char :=
  mnemonic.toList ++ ' ' :: braces.1 :: pads.toList ++ [braces.2]

/-! ### Commands that read one field, and commands that write one -/

/-- One fresh read of `reg`, then the field at offset `o` of width `w` as the result; a failing read is a
TransportError. No store: the sensor is as its own steps leave it. -/
def ReadsField (i : Instr) (reg : Platform → Byte) (o w : Nat) : Prop :=
  (∀ s, runsWell s [.rd] = true →
    ∃ t, exec i s = .next t ∧
      Completes s t (some (getBits (seenAt s 1 (reg s.plat)) o w)) 0 0 0
        [readOf (reg s.plat) (seenAt s 1 (reg s.plat))] ∧
      t.sensor = (s.arriveN 3).sensor) ∧
  (∀ s, failsAt s [] .rd = true →
    ∃ t, exec i s = .next t ∧
      Fails s t (.transportError .rd (reg s.plat)) 0 0 0 [.read Config.devAddr (reg s.plat) none] ∧
      t.sensor = (s.arriveN 2).sensor)

/-- R55: after a write of `v` to `a` with `ok = 0`, the sensor holds its old byte or the new one, as the slot draws. -/
def maybeStored (landed : Bool) (a v : Byte) (s : State) : Sensor :=
  if landed then (s.storeReg a v).sensor else s.sensor

/-- A read-modify-write of the field of `reg` at offset `o` of width `w` to the value `v`: the read, the write of the
full byte with only that field replaced, and the failures of either transaction. -/
def WritesField (i : Instr) (reg v : Byte) (o w : Nat) : Prop :=
  (∀ s, runsWell s [.rd, .wr] = true →
    ∃ t, exec i s = .next t ∧
      Completes s t none 0 0 0
        [writeOf reg (setBits (seenAt s 1 reg) v o w), readOf reg (seenAt s 1 reg)] ∧
      t.sensor = ((s.arriveN 3).storeReg reg (setBits (seenAt s 1 reg) v o w)).arrive.sensor ∧
      (s.plat.ok = true →
        seenAt s 1 reg = s.sensor.reg reg ∧ t.sensor.reg reg = setBits (s.sensor.reg reg) v o w)) ∧
  (∀ s, failsAt s [] .rd = true →
    ∃ t, exec i s = .next t ∧
      Fails s t (.transportError .rd reg) 0 0 0 [.read Config.devAddr reg none] ∧
      t.sensor = (s.arriveN 2).sensor) ∧
  (∀ s, failsAt s [.rd] .wr = true →
    ∃ t, exec i s = .next t ∧
      Fails s t (.transportError .wr reg) 0 0 0
        [.write Config.devAddr reg (setBits (seenAt s 1 reg) v o w) false, readOf reg (seenAt s 1 reg)] ∧
      t.sensor =
        maybeStored (s.env.slotAt 2).landed reg (setBits (seenAt s 1 reg) v o w) (s.arriveN 3))

/-! ### The latch clear -/

/-- R170: the transactions of `ClearLatch()`. -/
def clearKinds : LatchMode → List BusKind
  | .blindZero => [.wr]
  | .rmw => [.rd, .wr]

/-- R170: the byte `ClearLatch()` writes, from the state `u` its first transaction finds. -/
def clearByte (u : State) : Byte :=
  match u.plat.latchMode with
  | .blindZero => 0x00
  | .rmw => setBits (u.sensor.reg Config.regMainControl) 0 0 1

/-- R170: the state at the latch clear's write, from the state `u` its first transaction finds. -/
def clearWriteAt (u : State) : State :=
  match u.plat.latchMode with
  | .blindZero => u
  | .rmw => u.arrive

/-- R170: the read of the `RMW` clear. -/
def clearReads (u : State) : List BusEvent :=
  match u.plat.latchMode with
  | .blindZero => []
  | .rmw => [readOf Config.regMainControl (u.sensor.reg Config.regMainControl)]

/-- The state just after the write of a latch clear from `u`, before any sensor step. -/
def justCleared (u : State) : State := (clearWriteAt u).storeReg Config.regMainControl (clearByte u)

/-- The sensor after a latch clear from `u` and the sensor steps before the commit. -/
def clearedSensor (u : State) : Sensor :=
  (justCleared u).arrive.sensor

/-- Some one of these sensor steps sets the latch: it is 0 before that step and 1 after it (R65). -/
def latchSet (p : Platform) : List SensorDraw → Sensor → Bool
  | [], _ => false
  | d :: ds, z => (!z.latch && (sensorStep p d z).latch) || latchSet p ds (sensorStep p d z)

/-- No sensor step after the write of a latch clear from `u` and before the next block step sets the latch. -/
def staysClear (u : State) : Prop :=
  latchSet u.plat ((justCleared u).env.slotAt 0).sensor (justCleared u).sensor = false

/-- R170: the transactions of a latch clear from `u`, newest first. -/
def clearBus (u : State) : List BusEvent :=
  writeOf Config.regMainControl (clearByte u) :: clearReads u

/-- A failure inside `ClearLatch()` is the command's one TransportError and names main control (R240): for the state
`u` that the clear finds after the transactions `pre` with bus history `bus`. -/
def ClearFailures (i : Instr) (s : State) (pre : List BusKind) (bus : List BusEvent) (u : State) : Prop :=
  (s.plat.latchMode = .rmw → failsAt s pre .rd = true →
    ∃ t, exec i s = .next t ∧
      Fails s t (.transportError .rd Config.regMainControl) 0 0 0
        (.read Config.devAddr Config.regMainControl none :: bus) ∧
      t.sensor = u.sensor) ∧
  (failsAt s (pre ++ (clearKinds s.plat.latchMode).dropLast) .wr = true →
    ∃ t, exec i s = .next t ∧
      Fails s t (.transportError .wr Config.regMainControl) 0 0 0
        (.write Config.devAddr Config.regMainControl (clearByte u) false :: (clearReads u ++ bus)) ∧
      t.sensor =
        maybeStored (s.env.slotAt (pre.length + (clearKinds s.plat.latchMode).length)).landed
          Config.regMainControl (clearByte u) (clearWriteAt u))

/-- A touch query: one read of `reg`; the answer `ans` of the byte read; and, iff the answer is positive, the latch
clear before the completion (R176). -/
def AnswersAndClears (i : Instr) (reg : Platform → Byte) (positive : Byte → Bool) (ans : Byte → Byte) : Prop :=
  (∀ s, positive (seenAt s 1 (reg s.plat)) = false → runsWell s [.rd] = true →
    ∃ t, exec i s = .next t ∧
      Completes s t (some (ans (seenAt s 1 (reg s.plat)))) 0 0 0
        [readOf (reg s.plat) (seenAt s 1 (reg s.plat))] ∧
      t.sensor = (s.arriveN 3).sensor) ∧
  (∀ s, positive (seenAt s 1 (reg s.plat)) = true → runsWell s (.rd :: clearKinds s.plat.latchMode) = true →
    ∃ t, exec i s = .next t ∧
      Completes s t (some (ans (seenAt s 1 (reg s.plat)))) 0 0 0
        (clearBus (s.arriveN 3) ++ [readOf (reg s.plat) (seenAt s 1 (reg s.plat))]) ∧
      t.sensor = clearedSensor (s.arriveN 3)) ∧
  (∀ s, failsAt s [] .rd = true →
    ∃ t, exec i s = .next t ∧
      Fails s t (.transportError .rd (reg s.plat)) 0 0 0 [.read Config.devAddr (reg s.plat) none] ∧
      t.sensor = (s.arriveN 2).sensor) ∧
  (∀ s, positive (seenAt s 1 (reg s.plat)) = true →
    ClearFailures i s [.rd] [readOf (reg s.plat) (seenAt s 1 (reg s.plat))] (s.arriveN 3))

/-! ### BRINGUP -/

/-- The state that BRINGUP's second read finds: its first read-modify-write done (R130). -/
def afterSensitivity (s : State) : State :=
  ((s.arriveN 3).storeReg Config.regSensitivity (setBits (seenAt s 1 Config.regSensitivity) 6 4 3)).arrive

/-- The state that BRINGUP's latch clear finds: both read-modify-writes done (R130). -/
def afterEnable (s : State) : State :=
  ((afterSensitivity s).arrive.storeReg Config.regIntEnable
    (setBits ((afterSensitivity s).sensor.reg Config.regIntEnable) 0b111 0 3)).arrive

/-- BRINGUP's transactions before the latch clear, newest first. -/
def bringupBus (s : State) : List BusEvent :=
  [writeOf Config.regIntEnable (setBits ((afterSensitivity s).sensor.reg Config.regIntEnable) 0b111 0 3),
    readOf Config.regIntEnable ((afterSensitivity s).sensor.reg Config.regIntEnable),
    writeOf Config.regSensitivity (setBits (seenAt s 1 Config.regSensitivity) 6 4 3),
    readOf Config.regSensitivity (seenAt s 1 Config.regSensitivity)]

/-! ### The codec commands -/

/-- GETB and SETB (R111, R112, R232): the result `r` where the field is in range, FieldRange where it is not. -/
def CodecCommand (i : Instr) (off : BitVec 3) (wid : BitVec 4) (r : Byte) : Prop :=
  (∀ s, off.toNat + wid.toNat ≤ 8 → runsWell s [] = true →
    ∃ t, exec i s = .next t ∧ Completes s t (some r) 0 0 0 [] ∧ t.sensor = (s.arriveN 2).sensor) ∧
  (∀ s, off.toNat + wid.toNat > 8 → accepting s = true →
    ∃ t, exec i s = .next t ∧ Fails s t (.fieldRange off wid) 0 0 0 [] ∧ t.block.err = 2 ∧
      t.block.errInfo.toNat = off.toNat * 16 + wid.toNat ∧ t.sensor = (s.arriveN 1).sensor)

/-! ### The sensor and the host -/

/-- The commands whose completion or positive answer clears the latch (R176). -/
def clearsTheLatch : Instr → Prop
  | .clri => True
  | .bringup => True
  | .gett => True
  | .ist => True
  | .ispt _ => True
  | .ispb => True
  | _ => False

/-- The register a transaction names. -/
def eventReg : BusEvent → Option Byte
  | .read _ a _ => some a
  | .write _ a _ _ => some a
  | .probe _ _ => none

/-- R92: what each command's result may be; `False` for a command that has none. -/
def ResultFits : Instr → Byte → Prop
  | .getb _ _ wid, r => r.toNat < 2 ^ wid.toNat
  | .setb _ _ _ _, _ => True
  | .chks, r => r.toNat < 8
  | .gsens, r => r.toNat < 8
  | .gie, r => r.toNat < 8
  | .chkt, r => r.toNat < 8
  | .gett, r => r.toNat < 8
  | .gpbp, r => r.toNat < 8
  | .gpbt, r => r.toNat < 4
  | .ist, r => r = 0x00 ∨ r = 0x01
  | .ispt _, r => r = 0x00 ∨ r = 0x01
  | .ispb, r => r = 0x00 ∨ r = 0x01
  | .gpbe, r => r = 0x00 ∨ r = 0x01
  | .isls, r => r = 0x00
  | .isrs, r => r = 0x00
  | _, _ => False

/-- No connect is in progress. -/
def Settled (b : Boot) : Prop := b = .off ∨ b = .ready ∨ ∃ c i, b = .failed c i

/-- What a host step finds: the sensor steps of its slot done, and the block registers reset if the slot asserts a
block reset (R260). -/
def found (s : State) : State :=
  if (s.env.slotAt 0).reset then { s.arriveN 1 with block := Block.reset } else s.arriveN 1

/-- The state with the host's word taken: the boot protocol then awaits BRINGUP's commit (R265), or the move is made. -/
def taken (s : State) : State :=
  match s.host.boot with
  | .issue => { s with host := { s.host with boot := .await } }
  | _ => { s with host := { s.host with moves := s.host.moves.tail } }

/-- A move of the host on the ports is made now: no connect is in progress, and the block is IDLE, or BUSY in a slot
that gives the host the turn and asserts no reset (log entry 12). -/
def PortTurn (s : State) : Prop :=
  Settled s.host.boot ∧
    (s.block.phase = .idle ∨ ((s.env.slotAt 0).host = true ∧ (s.env.slotAt 0).reset = false))

/-- R29's output ports, row by row: what the host gets, or the fault where the port holds no value (R21, R29). -/
def portShows (s : State) : OutPort → Except Fault PortRead
  | .cmdReady => .ok (.cmdReady (decide (s.block.phase = .idle)))
  | .done => .ok (.done s.block.done)
  | .result => if s.block.resultValid = true then .ok (.result s.block.result) else .error .resultNotValid
  | .resultValid => .ok (.resultValid s.block.resultValid)
  | .err => .ok (.err s.block.err)
  | .errInfo => .ok (.errInfo s.block.errInfo)
  | .warn => .ok (.warn s.block.warn)
  | .bcPads => .ok (.bcPads s.block.bcPads)
  | .calPads => .ok (.calPads s.block.calPads)
  | .cpc => .ok (.cpc s.block.cpc)
  | .cbGet =>
    if s.host.cbOff.toNat + s.host.cbWid.toNat ≤ 8 then
      .ok (.cbGet (getBits s.host.cbByte s.host.cbOff.toNat s.host.cbWid.toNat))
    else .error .codecNoValue
  | .cbSet =>
    if s.host.cbOff.toNat + s.host.cbWid.toNat ≤ 8 then
      .ok (.cbSet (setBits s.host.cbByte s.host.cbValue s.host.cbOff.toNat s.host.cbWid.toNat))
    else .error .codecNoValue
  | .cbRangeOk => .ok (.cbRangeOk (decide (s.host.cbOff.toNat + s.host.cbWid.toNat ≤ 8)))

/-- The state whose next slot, asserted reset and all, has been brought forward: the block registers reset at once, and
that slot without the reset (R260). -/
def resetFirst (c : Slot) (rest : List Slot) (s : State) : State :=
  { s with block := Block.reset, env := { s.env with sched := { c with reset := false } :: rest } }

/-- Two states that differ at most in the block's status registers (R20: not in PHASE and not in CPC). -/
def SameButStatus (s s' : State) : Prop :=
  s'.sensor = s.sensor ∧ s'.host = s.host ∧ s'.env = s.env ∧ s'.plat = s.plat ∧ s'.trace = s.trace ∧
    s'.block.phase = s.block.phase ∧ s'.block.cpc = s.block.cpc

end Sys2Proof.Claims

open Sys2Proof Sys2Proof.Machine Sys2Proof.Claims

/-! ### The codec -/

/-- R114. -/
def Obligations.FieldReadsBackWhatWasInserted : Prop :=
  ∀ (b v : Byte) (o w : Nat), o + w ≤ 8 →
    getBits (setBits b v o w) o w = v &&& BitVec.ofNat 8 ((1 <<< w) - 1)

/-- R115. -/
def Obligations.InsertLeavesOtherBits : Prop :=
  ∀ (b v : Byte) (o w : Nat), o + w ≤ 8 →
    setBits b v o w &&& ~~~(BitVec.ofNat 8 (((1 <<< w) - 1) <<< o)) =
      b &&& ~~~(BitVec.ofNat 8 (((1 <<< w) - 1) <<< o))

/-- R116. -/
def Obligations.OneBitFieldsAreBoolean : Prop :=
  ∀ (b : Byte) (o : Nat), o ≤ 7 → getBits b o 1 = 0 ∨ getBits b o 1 = 1

/-- R117, law by law. -/
def Obligations.CodecAlgebra : Prop :=
  (∀ (b v : Byte) (o w : Nat), o + w ≤ 8 → setBits (setBits b v o w) v o w = setBits b v o w) ∧
  (∀ (b : Byte) (o w : Nat), o + w ≤ 8 → setBits b (getBits b o w) o w = b) ∧
  (∀ (b v1 v2 : Byte) (o w : Nat), o + w ≤ 8 → setBits (setBits b v1 o w) v2 o w = setBits b v2 o w) ∧
  (∀ (b v1 v2 : Byte) (o1 w1 o2 w2 : Nat), o1 + w1 ≤ 8 → o2 + w2 ≤ 8 → (o1 + w1 ≤ o2 ∨ o2 + w2 ≤ o1) →
    setBits (setBits b v1 o1 w1) v2 o2 w2 = setBits (setBits b v2 o2 w2) v1 o1 w1) ∧
  (∀ (b v : Byte) (o : Nat), o ≤ 8 → getBits b o 0 = 0 ∧ setBits b v o 0 = b) ∧
  (∀ (b : Byte) (o w : Nat), o + w ≤ 8 → (getBits b o w).toNat < 2 ^ w)

/-! ### Words -/

/-- Every well-formed command's word decodes to that command (R80 to R83, R95). -/
def Obligations.DecodeInvertsEncode : Prop :=
  ∀ i : Instr, i.wellFormed = true → decode (encode i) = .ok i

/-- A word decodes to a command only if it is that command's word, and the command is well formed (R95). -/
def Obligations.DecodedWordIsTheEncoding : Prop :=
  ∀ (w : CmdWord) (i : Instr), decode w = .ok i → i.wellFormed = true ∧ encode i = w

/-- R83: with an assigned opcode, a word is ILLEGAL exactly when a zero field is not 0 or `B` is not legal. -/
def Obligations.AssignedOpcodeIllegalExactlyByTable : Prop :=
  ∀ (w : CmdWord) (r : TableRow), tableRow (w.extractLsb' 24 8) = some r → (illegal w = true ↔ breaksRow w r)

/-- R84: every other opcode is ILLEGAL; there are 232 of them; the all-zero and the all-one word among them. -/
def Obligations.UnassignedOpcodesIllegal : Prop :=
  (∀ w : CmdWord, tableRow (w.extractLsb' 24 8) = none → illegal w = true) ∧
  (∀ n : Nat, n < 256 →
    ((tableRow (BitVec.ofNat 8 n)).isNone = true ↔
      n = 0 ∨ (0x03 ≤ n ∧ n ≤ 0x0F) ∨ (0x13 ≤ n ∧ n ≤ 0x1F) ∨ (0x25 ≤ n ∧ n ≤ 0x2F) ∨ (0x37 ≤ n ∧ n ≤ 0x3F) ∨
        0x47 ≤ n)) ∧
  ((List.range 256).filter fun n => (tableRow (BitVec.ofNat 8 n)).isNone).length = 232 ∧
  illegal 0x00000000 = true ∧ illegal 0xFFFFFFFF = true

/-- Words written out from R111, R112, R150, R152, R175, R202 (examples of the spec). -/
def Obligations.SpecExampleWordsDecode : Prop :=
  decode 0x01A50086 = .ok (.getb 0xA5 4 3) ∧ decode 0x02A50344 = .ok (.setb 0xA5 0x03 2 2) ∧
    decode 0x20000700 = .ok (.ssens 7) ∧ decode 0x22000500 = .ok (.siep 0b101) ∧
    decode 0x34000400 = .ok (.ispt 0b100) ∧ decode 0x42000200 = .ok (.spbt 2) ∧
    decode 0x10000000 = .ok .bringup

/-- R88, R89: the level codes and the time codes. -/
def Obligations.LevelAndTimeCodes : Prop :=
  (List.map multiplier [0, 1, 2, 3, 4, 5, 6, 7] = [128, 64, 32, 16, 8, 4, 2, 1]) ∧
    (∀ c : BitVec 3, multiplier c * 2 ^ c.toNat = 128) ∧
    (List.map holdMs [0, 1, 2, 3] = [280, 560, 1120, 2240])

/-- R93 and R94: the word of every line, operand by operand; a line that assembles gives the word of its command, which
decodes to it; and every well-formed command is some line's. A number that does not fit a pad set or a level code is an
assembly error by the model's reading (log entry 15). -/
def Obligations.AssemblerReachesEveryCommand : Prop :=
  (∀ (line : AsmLine) (w : CmdWord), assemble line = some w →
    ∃ i, line.instr = some i ∧ i.wellFormed = true ∧ decode w = .ok i) ∧
  (∀ i : Instr, i.wellFormed = true → ∃ line, assemble line = some (encode i)) ∧
  (∀ b o w : Nat, b ≤ 0xFF → o ≤ 7 → w ≤ 15 →
    assemble (.getb b o w) =
      some (0x01#8 ++ BitVec.ofNat 8 b ++ 0x00#8 ++ BitVec.ofNat 3 o ++ BitVec.ofNat 4 w ++ 0#1)) ∧
  (∀ b v o w : Nat, b ≤ 0xFF → v ≤ 0xFF → o ≤ 7 → w ≤ 15 →
    assemble (.setb b v o w) =
      some (0x02#8 ++ BitVec.ofNat 8 b ++ BitVec.ofNat 8 v ++ BitVec.ofNat 3 o ++ BitVec.ofNat 4 w ++ 0#1)) ∧
  (∀ b o w : Nat, 0xFF < b ∨ 7 < o ∨ 15 < w → assemble (.getb b o w) = none) ∧
  (∀ b v o w : Nat, 0xFF < b ∨ 0xFF < v ∨ 7 < o ∨ 15 < w → assemble (.setb b v o w) = none) ∧
  (List.map (fun m => assemble (.ssensBy m)) [128, 64, 32, 16, 8, 4, 2, 1] =
    List.map some [0x20000000, 0x20000100, 0x20000200, 0x20000300, 0x20000400, 0x20000500, 0x20000600, 0x20000700]) ∧
  (∀ m : Nat, m ∉ [128, 64, 32, 16, 8, 4, 2, 1] → assemble (.ssensBy m) = none) ∧
  (∀ c : Nat, c ≤ 7 → assemble (.ssensCode c) = some (0x20#8 ++ 0x00#8 ++ BitVec.ofNat 8 c ++ 0x00#8)) ∧
  (∀ c : Nat, 7 < c → assemble (.ssensCode c) = none) ∧
  PadsLine 0x22 .siep ∧ PadsLine 0x22 .siePads ∧ PadsLine 0x40 .spbp ∧ PadsLine 0x40 .spbPads ∧
  (List.map assemble [.siea true, .siea false, .sieBool true, .sieBool false] =
    List.map some [0x23000100, 0x23000000, 0x23000100, 0x23000000]) ∧
  (List.map assemble [.spbe true, .spbe false, .spbBool true, .spbBool false] =
    List.map some [0x44000100, 0x44000000, 0x44000100, 0x44000000]) ∧
  (List.map assemble [.ispt .left, .ispt .middle, .ispt .right, .islt, .ismt, .isrt] =
    List.map some [0x34000100, 0x34000200, 0x34000400, 0x34000100, 0x34000200, 0x34000400]) ∧
  (List.map (fun ms => assemble (.spbt ms)) [280, 560, 1120, 2240] =
    List.map some [0x42000000, 0x42000100, 0x42000200, 0x42000300]) ∧
  (∀ ms : Nat, ms ∉ [280, 560, 1120, 2240] → assemble (.spbt ms) = none) ∧
  (∀ op : PlainOp, ∃ w, (op, w) ∈ plainWords) ∧ (∀ x ∈ plainWords, assemble (.plain x.1) = some x.2) ∧
  assemble .reset = some 0x12000000

/-- R93 and R94 as text: one line of each form, with its word. -/
def Obligations.AssemblyTextOfEachForm : Prop :=
  (List.map assembleText
      ["GETB 0xA5, 4, 3".toList, "SETB 0xA5, 0b11, 2, 2".toList, "GETB 18, 7, 15".toList, "GETB 256, 0, 0".toList] =
    [some 0x01A50086, some 0x02A50344, some 0x011200FE, none]) ∧
  (List.map assembleText
      ["SSENS x128".toList, "SSENS x64".toList, "SSENS x32".toList, "SSENS x16".toList, "SSENS x8".toList,
        "SSENS x4".toList, "SSENS x2".toList, "SSENS x1".toList, "SSENS #6".toList] =
    List.map some [0x20000000, 0x20000100, 0x20000200, 0x20000300, 0x20000400, 0x20000500, 0x20000600, 0x20000700,
      0x20000600]) ∧
  (List.map assembleText
      [bracedLine "SIEP" "", bracedLine "SIEP" "L", bracedLine "SIEP" "M,R", "SIEP 0b110".toList, bracedLine "SIE" "R",
        "SIE 7".toList, bracedLine "SPBP" "M", "SPBP 5".toList, bracedLine "SPB" "L,M,R", "SPB 0".toList] =
    List.map some [0x22000000, 0x22000100, 0x22000600, 0x22000600, 0x22000400, 0x22000700, 0x40000200, 0x40000500,
      0x40000700, 0x40000000]) ∧
  (List.map assembleText
      ["SIEA true".toList, "SIEA false".toList, "SIE true".toList, "SIE false".toList, "SPBE true".toList,
        "SPBE false".toList, "SPB true".toList, "SPB false".toList] =
    List.map some [0x23000100, 0x23000000, 0x23000100, 0x23000000, 0x44000100, 0x44000000, 0x44000100, 0x44000000]) ∧
  (List.map assembleText
      ["ISPT L".toList, "ISPT M".toList, "ISPT R".toList, "ISLT".toList, "ISMT".toList, "ISRT".toList] =
    List.map some [0x34000100, 0x34000200, 0x34000400, 0x34000100, 0x34000200, 0x34000400]) ∧
  (List.map assembleText
      ["SPBT 280ms".toList, "SPBT 560ms".toList, "SPBT 1120ms".toList, "SPBT 2240ms".toList] =
    List.map some [0x42000000, 0x42000100, 0x42000200, 0x42000300]) ∧
  (List.map assembleText
      ["BRINGUP".toList, "CHKS".toList, "RECAL".toList, "RESET".toList, "GSENS".toList, "GIE".toList, "CLRI".toList,
        "CHKT".toList, "GETT".toList, "IST".toList, "ISLS".toList, "ISRS".toList, "GPBP".toList, "GPBT".toList,
        "GPBE".toList, "ISPB".toList] =
    List.map some [0x10000000, 0x11000000, 0x12000000, 0x12000000, 0x21000000, 0x24000000, 0x30000000, 0x31000000,
      0x32000000, 0x33000000, 0x35000000, 0x36000000, 0x41000000, 0x43000000, 0x45000000, 0x46000000])

/-! ### Accepting a word -/

/-- In IDLE, with a word presented that decodes to `i`, the step is `exec i` with the word taken off the host's moves
(R26, R69, R267); in BUSY the step is a block step (R26), but where the host's port move takes the turn (log entry
12). -/
def Obligations.StepRunsThePresentedCommand : Prop :=
  (∀ (s : State) (w : CmdWord) (rest : List HostMove) (i : Instr),
    s.block.phase = .idle → Settled s.host.boot → s.host.moves = .present w :: rest → decode w = .ok i →
    step s = exec i { s with host := { s.host with moves := rest } }) ∧
  (∀ s : State, s.block.phase ≠ .idle → s.hostActs = false → step s = .next (blockStep s))

/-- R29, R265, R267: `cmd` shows exactly the word that the next step accepts: BRINGUP's where the boot protocol issues
it, else the host's next move's; it shows none while BUSY or while the protocol probes or awaits; and a step in IDLE
with none on it accepts none: it commits nothing and leaves the block registers, but for a reset. -/
def Obligations.CmdPortShowsTheWordTaken : Prop :=
  (∀ (s : State) (w : CmdWord), s.cmd = some w →
    s.cmdValid = true ∧ s.block.phase = .idle ∧ (∀ i, decode w = .ok i → step s = exec i (taken s)) ∧
      (illegal w = true → step s = .next ((taken s).accept.raiseError (.illegalCommand w)))) ∧
  (∀ s t : State, s.block.phase = .idle → s.cmd = none → step s = .next t →
    s.cmdValid = false ∧ t.block = (if (s.env.slotAt 0).reset then Block.reset else s.block) ∧
      t.trace.commits = s.trace.commits ∧ t.sensor = (s.arriveN 1).sensor) ∧
  (∀ s : State, s.block.phase = .idle → s.host.boot = .issue → s.cmd = some 0x10000000) ∧
  (∀ s : State, s.host.boot = .await ∨ (∃ made, s.host.boot = .probing made) → s.cmd = none) ∧
  (∀ (s : State) (m : HostMove) (rest : List HostMove), s.block.phase = .idle → Settled s.host.boot →
    s.host.moves = m :: rest → s.cmd = (match m with | .present w => some w | _ => none)) ∧
  (∀ s : State, s.block.phase ≠ .idle → s.cmd = none)

/-- R231: an undecodable word raises IllegalCommand in the accept step, recording the word; no transaction, no change
of the sensor but its own steps. -/
def Obligations.IllegalWordRaisesIllegalCommand : Prop :=
  ∀ (s : State) (w : CmdWord) (rest : List HostMove),
    s.block.phase = .idle → (s.env.slotAt 0).reset = false → Settled s.host.boot →
    s.host.moves = .present w :: rest → illegal w = true →
    ∃ t, step s = .next t ∧
      Fails { s with host := { s.host with moves := rest } } t (.illegalCommand w) 0 0 0 [] ∧
      t.block.err = 1 ∧ t.block.errInfo = w ∧ t.sensor = (s.arriveN 1).sensor

/-- A command while BUSY is not accepted (R267). -/
def Obligations.CommandWhileBusyIsRefused : Prop :=
  ∀ (i : Instr) (s : State), s.block.phase ≠ .idle → exec i s = .refused .commandWhileBusy

/-- R26, accept, at the grain of one block step: the status registers are cleared, PHASE is BUSY(op, 0, {}), and no
transaction is issued. -/
def Obligations.AcceptStepClearsStatus : Prop :=
  ∀ (i : Instr) (s : State), s.block.phase = .idle → s.env.grain = .transaction →
    (s.env.slotAt 0).reset = false → acceptCheck i = none →
    ∃ t, exec i s = .next t ∧ t.block.phase = .busy i 0 [] ∧ t.block.err = 0 ∧ t.block.errInfo = 0 ∧
      t.block.warn = 0 ∧ t.block.bcPads = 0 ∧ t.block.calPads = 0 ∧ t.block.resultValid = false ∧
      t.block.result = s.block.result ∧ t.block.cpc = s.block.cpc ∧ t.trace = s.trace ∧ t.host = s.host ∧
      t.sensor = (s.arriveN 1).sensor

/-! ### The commands, family by family -/

/-- R111, R112, R232: GETB and SETB: their words, with `B` (GETB) and `RSV` the fields that must be 0; the result where
the field is in range; FieldRange in the accept step, recording `OFF ++ WID`, where it is not. No transaction. -/
def Obligations.CodecCommandsOnTheirOperands : Prop :=
  (∀ (a : Byte) (off : BitVec 3) (wid : BitVec 4),
    decode (0x01#8 ++ a ++ 0x00#8 ++ off ++ wid ++ 0#1) = .ok (.getb a off wid) ∧
      CodecCommand (.getb a off wid) off wid (getBits a off.toNat wid.toNat)) ∧
  (∀ (a b : Byte) (off : BitVec 3) (wid : BitVec 4),
    decode (0x02#8 ++ a ++ b ++ off ++ wid ++ 0#1) = .ok (.setb a b off wid) ∧
      CodecCommand (.setb a b off wid) off wid (setBits a b off.toNat wid.toNat)) ∧
  (∀ w : CmdWord, w.extractLsb' 24 8 = 0x01 →
    (illegal w = true ↔ w.extractLsb' 8 8 ≠ 0 ∨ w.extractLsb' 0 1 ≠ 0)) ∧
  (∀ w : CmdWord, w.extractLsb' 24 8 = 0x02 → (illegal w = true ↔ w.extractLsb' 0 1 ≠ 0))

/-- R130: BRINGUP. -/
def Obligations.BringupConfiguresAndClears : Prop :=
  PlainWord .bringup 0x10000000 ∧
  (∀ s, runsWell s ([.rd, .wr, .rd, .wr] ++ clearKinds s.plat.latchMode) = true →
    ∃ t, exec .bringup s = .next t ∧
      Completes s t none 0 0 0 (clearBus (afterEnable s) ++ bringupBus s) ∧
      t.sensor = clearedSensor (afterEnable s) ∧
      (justCleared (afterEnable s)).sensor.latch = false ∧
      (s.plat.ok = true →
        t.sensor.reg 0x1F = setBits (s.sensor.reg 0x1F) 6 4 3 ∧ getBits (t.sensor.reg 0x1F) 4 3 = 6 ∧
        t.sensor.reg 0x27 = setBits (s.sensor.reg 0x27) 0b111 0 3 ∧ getBits (t.sensor.reg 0x27) 0 3 = 0b111)) ∧
  (∀ s, failsAt s [] .rd = true →
    ∃ t, exec .bringup s = .next t ∧
      Fails s t (.transportError .rd Config.regSensitivity) 0 0 0
        [.read Config.devAddr Config.regSensitivity none] ∧ t.sensor = (s.arriveN 2).sensor) ∧
  (∀ s, failsAt s [.rd] .wr = true →
    ∃ t, exec .bringup s = .next t ∧
      Fails s t (.transportError .wr Config.regSensitivity) 0 0 0
        (.write Config.devAddr Config.regSensitivity (setBits (seenAt s 1 Config.regSensitivity) 6 4 3) false
          :: (bringupBus s).drop 3) ∧
      t.sensor = maybeStored (s.env.slotAt 2).landed Config.regSensitivity
        (setBits (seenAt s 1 Config.regSensitivity) 6 4 3) (s.arriveN 3)) ∧
  (∀ s, failsAt s [.rd, .wr] .rd = true →
    ∃ t, exec .bringup s = .next t ∧
      Fails s t (.transportError .rd Config.regIntEnable) 0 0 0
        (.read Config.devAddr Config.regIntEnable none :: (bringupBus s).drop 2) ∧
      t.sensor = (afterSensitivity s).sensor) ∧
  (∀ s, failsAt s [.rd, .wr, .rd] .wr = true →
    ∃ t, exec .bringup s = .next t ∧
      Fails s t (.transportError .wr Config.regIntEnable) 0 0 0
        (.write Config.devAddr Config.regIntEnable
            (setBits ((afterSensitivity s).sensor.reg Config.regIntEnable) 0b111 0 3) false
          :: (bringupBus s).drop 1) ∧
      t.sensor = maybeStored (s.env.slotAt 4).landed Config.regIntEnable
        (setBits ((afterSensitivity s).sensor.reg Config.regIntEnable) 0b111 0 3) (afterSensitivity s).arrive) ∧
  (∀ s, ClearFailures .bringup s [.rd, .wr, .rd, .wr] (bringupBus s) (afterEnable s))

/-- R131: CHKS, over the two fault bits of the one general-status read. -/
def Obligations.ChksReportsFaultyPads : Prop :=
  PlainWord .chks 0x11000000 ∧
  ∀ s : State,
    let g := seenAt s 1 Config.regGeneralStatus
    let bcSet := g.getLsbD s.plat.gsBcOutBit.val
    let calSet := g.getLsbD s.plat.gsCalFailBit.val
    (bcSet = false → calSet = false → runsWell s [.rd] = true →
      ∃ t, exec .chks s = .next t ∧ Completes s t (some 0x00) 0 0 0 [readOf Config.regGeneralStatus g] ∧
        t.sensor = (s.arriveN 3).sensor) ∧
    (bcSet = true → calSet = false → runsWell s [.rd, .rd] = true →
      ∃ t, exec .chks s = .next t ∧
        Completes s t (some (getBits (seenAt s 2 s.plat.regBcOut) 0 3)) wBcOut
          (padsOf (seenAt s 2 s.plat.regBcOut)) 0
          [readOf s.plat.regBcOut (seenAt s 2 s.plat.regBcOut), readOf Config.regGeneralStatus g] ∧
        t.sensor = (s.arriveN 4).sensor) ∧
    (bcSet = false → calSet = true → runsWell s [.rd, .rd] = true →
      ∃ t, exec .chks s = .next t ∧
        Completes s t (some (getBits (seenAt s 2 s.plat.regCalStatus) 0 3)) wCalFail 0
          (padsOf (seenAt s 2 s.plat.regCalStatus))
          [readOf s.plat.regCalStatus (seenAt s 2 s.plat.regCalStatus), readOf Config.regGeneralStatus g] ∧
        t.sensor = (s.arriveN 4).sensor) ∧
    (bcSet = true → calSet = true → runsWell s [.rd, .rd, .rd] = true →
      ∃ t, exec .chks s = .next t ∧
        Completes s t
          (some (getBits (seenAt s 2 s.plat.regBcOut) 0 3 ||| getBits (seenAt s 3 s.plat.regCalStatus) 0 3))
          (wBcOut ||| wCalFail) (padsOf (seenAt s 2 s.plat.regBcOut)) (padsOf (seenAt s 3 s.plat.regCalStatus))
          [readOf s.plat.regCalStatus (seenAt s 3 s.plat.regCalStatus),
            readOf s.plat.regBcOut (seenAt s 2 s.plat.regBcOut), readOf Config.regGeneralStatus g] ∧
        t.sensor = (s.arriveN 5).sensor) ∧
    (failsAt s [] .rd = true →
      ∃ t, exec .chks s = .next t ∧
        Fails s t (.transportError .rd Config.regGeneralStatus) 0 0 0
          [.read Config.devAddr Config.regGeneralStatus none] ∧ t.sensor = (s.arriveN 2).sensor) ∧
    (bcSet = true → failsAt s [.rd] .rd = true →
      ∃ t, exec .chks s = .next t ∧
        Fails s t (.transportError .rd s.plat.regBcOut) 0 0 0
          [.read Config.devAddr s.plat.regBcOut none, readOf Config.regGeneralStatus g] ∧
        t.sensor = (s.arriveN 3).sensor) ∧
    (bcSet = false → calSet = true → failsAt s [.rd] .rd = true →
      ∃ t, exec .chks s = .next t ∧
        Fails s t (.transportError .rd s.plat.regCalStatus) 0 0 0
          [.read Config.devAddr s.plat.regCalStatus none, readOf Config.regGeneralStatus g] ∧
        t.sensor = (s.arriveN 3).sensor) ∧
    (bcSet = true → calSet = true → failsAt s [.rd, .rd] .rd = true →
      ∃ t, exec .chks s = .next t ∧
        Fails s t (.transportError .rd s.plat.regCalStatus) wBcOut (padsOf (seenAt s 2 s.plat.regBcOut)) 0
          [.read Config.devAddr s.plat.regCalStatus none,
            readOf s.plat.regBcOut (seenAt s 2 s.plat.regBcOut), readOf Config.regGeneralStatus g] ∧
        t.sensor = (s.arriveN 4).sensor)

/-- R132: RECAL, one blind write of 0x07, after which a recalibration is in progress. -/
def Obligations.RecalWritesTheFixedCommand : Prop :=
  PlainWord .recal 0x12000000 ∧
  (∀ s, runsWell s [.wr] = true →
    ∃ t, exec .recal s = .next t ∧ Completes s t none 0 0 0 [writeOf s.plat.regCalActivate 0x07] ∧
      t.sensor = ((s.arriveN 2).storeReg s.plat.regCalActivate 0x07).arrive.sensor ∧
      ((s.arriveN 2).storeReg s.plat.regCalActivate 0x07).sensor.calPending = true) ∧
  (∀ s, failsAt s [] .wr = true →
    ∃ t, exec .recal s = .next t ∧
      Fails s t (.transportError .wr s.plat.regCalActivate) 0 0 0
        [.write Config.devAddr s.plat.regCalActivate 0x07 false] ∧
      t.sensor = maybeStored (s.env.slotAt 1).landed s.plat.regCalActivate 0x07 (s.arriveN 2))

/-- R151, R154, R201, R203, R205: the getters of the configuration registers. -/
def Obligations.GettersReturnTheirField : Prop :=
  (PlainWord .gsens 0x21000000 ∧ ReadsField .gsens (fun _ => 0x1F) 4 3) ∧
  (PlainWord .gie 0x24000000 ∧ ReadsField .gie (fun _ => 0x27) 0 3) ∧
  (PlainWord .gpbp 0x41000000 ∧ ReadsField .gpbp (fun _ => 0x60) 0 3) ∧
  (PlainWord .gpbt 0x43000000 ∧ ReadsField .gpbt (fun _ => 0x61) 0 2) ∧
  (PlainWord .gpbe 0x45000000 ∧ ReadsField .gpbe (fun _ => 0x61) 2 1)

/-- R150: SSENS. -/
def Obligations.SsensReplacesTheLevel : Prop :=
  TypedWord 0x20 (fun level : BitVec 3 => level.setWidth 8) .ssens ∧
    ∀ level : BitVec 3, WritesField (.ssens level) 0x1F (level.setWidth 8) 4 3

/-- R152, R153: SIEP and SIEA, which replace the interrupt-enable field. -/
def Obligations.InterruptEnableSettersReplaceTheField : Prop :=
  TypedWord 0x22 (fun pads : PadSet => pads.setWidth 8) .siep ∧
    (∀ pads : PadSet, WritesField (.siep pads) 0x27 (pads.setWidth 8) 0 3) ∧
  TypedWord 0x23 (fun on : Bool => if on then 0x01 else 0x00) .siea ∧
    (∀ on : Bool, WritesField (.siea on) 0x27 (if on then 0b111 else 0b000) 0 3)

/-- R200, R202, R204: SPBP, SPBT and SPBE. -/
def Obligations.PowerButtonSettersReplaceTheirField : Prop :=
  TypedWord 0x40 (fun pads : PadSet => pads.setWidth 8) .spbp ∧
    (∀ pads : PadSet, WritesField (.spbp pads) 0x60 (pads.setWidth 8) 0 3) ∧
  TypedWord 0x42 (fun time : BitVec 2 => time.setWidth 8) .spbt ∧
    (∀ time : BitVec 2, WritesField (.spbt time) 0x61 (time.setWidth 8) 0 2) ∧
  TypedWord 0x44 (fun on : Bool => if on then 0x01 else 0x00) .spbe ∧
    (∀ on : Bool, WritesField (.spbe on) 0x61 (if on then 0x01 else 0x00) 2 1)

/-- R171, R170: CLRI, in both clear modes; and two of them in a row leave what one leaves: every register where no
sensor step falls; and with any sensor steps, main control and the configuration, where none sets the latch after the
first clear's write: just after the second clear's write they are as after the first CLRI, and so they stay to its
commit where no sensor step sets the latch after that write either. Where sensor steps fall, the part about registers
that no rule names rests on the model's choice that no sensor step changes them (log entry 20). -/
def Obligations.ClriClearsTheLatch : Prop :=
  PlainWord .clri 0x30000000 ∧
  (∀ s, runsWell s (clearKinds s.plat.latchMode) = true →
    ∃ t, exec .clri s = .next t ∧ Completes s t none 0 0 0 (clearBus (s.arriveN 2)) ∧
      t.sensor = clearedSensor (s.arriveN 2) ∧ (justCleared (s.arriveN 2)).sensor.latch = false) ∧
  (∀ s, ClearFailures .clri s [] [] (s.arriveN 2)) ∧
  (∀ s t u : State, runsWell s (clearKinds s.plat.latchMode) = true →
    runsWell t (clearKinds t.plat.latchMode) = true → exec .clri s = .next t → exec .clri t = .next u →
    (quiet s longest = true → quiet t longest = true → ∀ a : Byte, u.sensor.reg a = t.sensor.reg a) ∧
    (s.plat.ok = true → staysClear (s.arriveN 2) →
      ∀ a : Byte, a = Config.regMainControl ∨ sensorLeaves s.plat a = true →
        (justCleared (t.arriveN 2)).sensor.reg a = t.sensor.reg a ∧
        (staysClear (t.arriveN 2) → u.sensor.reg a = t.sensor.reg a)))

/-- R172: CHKT reads the live touch status and clears nothing. -/
def Obligations.ChktReadsWithoutClearing : Prop :=
  PlainWord .chkt 0x31000000 ∧ ReadsField .chkt Platform.regTouchStatus 0 3

/-- R173: GETT. -/
def Obligations.GettClearsIffAnyPadTouched : Prop :=
  PlainWord .gett 0x32000000 ∧
    AnswersAndClears .gett Platform.regTouchStatus (fun b => getBits b 0 3 != 0) (fun b => getBits b 0 3)

/-- R174, R206: IST and ISPB, on bits 0 and 4 of general status. -/
def Obligations.GeneralStatusQueriesClearIffSet : Prop :=
  (PlainWord .ist 0x33000000 ∧
    AnswersAndClears .ist (fun _ => 0x02) (fun g => g.getLsbD 0) (fun g => if g.getLsbD 0 then 0x01 else 0x00)) ∧
  (PlainWord .ispb 0x46000000 ∧
    AnswersAndClears .ispb (fun _ => 0x02) (fun g => g.getLsbD 4) (fun g => if g.getLsbD 4 then 0x01 else 0x00))

/-- R175: ISPT, for each of the three pads. -/
def Obligations.IsptClearsIffThePadIsTouched : Prop :=
  TypedWord 0x34 (fun x : Pad => x.bit.setWidth 8) (fun x => .ispt x.bit) ∧
    ∀ x : Pad,
      AnswersAndClears (.ispt x.bit) Platform.regTouchStatus (fun b => PadSet.has (padsOf b) x)
        (fun b => if PadSet.has (padsOf b) x then 0x01 else 0x00)

/-- R177, R178: ISLS and ISRS answer false with the warning, whatever the sensor holds, and issue no transaction. -/
def Obligations.SwipePlaceholdersWarnAndAnswerFalse : Prop :=
  PlainWord .isls 0x35000000 ∧ PlainWord .isrs 0x36000000 ∧
  ∀ s, runsWell s [] = true →
    (∃ t, exec .isls s = .next t ∧ Completes s t (some 0x00) wNotImpl 0 0 [] ∧
      t.sensor = (s.arriveN 2).sensor) ∧
    (∃ t, exec .isrs s = .next t ∧ Completes s t (some 0x00) wNotImpl 0 0 [] ∧
      t.sensor = (s.arriveN 2).sensor)

/-! ### What every command does and leaves -/

/-- The frame of every command over the machine: the host's moves and ports, the parameters and the grain are
unchanged; the histories only grow; the sensor's memory outside the registers the command stores to is unchanged
where no sensor step falls in the command (R41, R42). -/
def Obligations.CommandsLeaveEverythingElse : Prop :=
  ∀ (i : Instr) (s t : State), exec i s = .next t →
    t.plat = s.plat ∧ t.env.grain = s.env.grain ∧ t.host.moves = s.host.moves ∧ t.host.got = s.host.got ∧
    t.host.cbByte = s.host.cbByte ∧ t.host.cbValue = s.host.cbValue ∧ t.host.cbOff = s.host.cbOff ∧
    t.host.cbWid = s.host.cbWid ∧ (noReset s longest = true → t.host = s.host) ∧
    (∃ new, t.trace.bus = new ++ s.trace.bus) ∧ (∃ new, t.trace.commits = new ++ s.trace.commits) ∧
    (quiet s longest = true →
      (∀ a : Byte, a ∉ storedRegs s.plat i → t.sensor.reg a = s.sensor.reg a) ∧
      (s.plat.ok = true → i ≠ .recal → t.sensor.calPending = s.sensor.calPending))

/-- With any sensor steps in it, a command leaves every configuration register it does not store to (R67, R42). It says
the same of the registers that no rule names; that no sensor step changes those is the model's choice (log entry 20). -/
def Obligations.ConfigurationOnlyByItsSetter : Prop :=
  ∀ (i : Instr) (s t : State) (a : Byte), exec i s = .next t → sensorLeaves s.plat a = true →
    a ∉ storedRegs s.plat i → t.sensor.reg a = s.sensor.reg a

/-- R27: with no block reset in it, a step advances `CPC` by the number of commands it commits, modulo 2^32, and that
is at most one; a command run whole commits exactly once. -/
def Obligations.CpcCountsCommits : Prop :=
  (∀ s t : State, step s = .next t → noReset s longest = true →
    ∃ new, t.trace.commits = new ++ s.trace.commits ∧ new.length ≤ 1 ∧
      t.block.cpc = s.block.cpc + BitVec.ofNat 32 new.length) ∧
  (∀ (i : Instr) (s t : State), exec i s = .next t → noReset s longest = true → s.env.grain = .command →
    t.block.cpc = s.block.cpc + 1 ∧ t.block.phase = .idle ∧
      ∃ r, t.trace.commits = r :: s.trace.commits)

/-- The port event `done` (R29) as the model holds it (log entry 9): set by a commit, held by every step that is no
accept and no reset (waits, probes, a connect, port moves, block steps that do not commit), cleared by an accept and by
a reset. -/
def Obligations.DoneIsHeldFromCommitToAccept : Prop :=
  (∀ (i : Instr) (s t : State), exec i s = .next t → noReset s longest = true →
    (t.block.phase = .idle → t.block.done = true) ∧ (t.block.phase ≠ .idle → t.block.done = false)) ∧
  (∀ s t : State, s.block.phase = .idle → s.cmd = none → (s.env.slotAt 0).reset = false → step s = .next t →
    t.block.done = s.block.done) ∧
  (∀ s t : State, s.block.phase ≠ .idle → (s.env.slotAt 0).reset = false → step s = .next t →
    t.block.done = if t.block.phase = .idle then true else s.block.done) ∧
  (∀ s t : State, s.cmd = none → (s.env.slotAt 0).reset = true → step s = .next t → t.block.done = false)

/-- R233, R237, R238: a command's transactions before the first failing one succeed; the bus history ends at the
failing one, which `ERR_INFO` names; without a failing one there is no TransportError. -/
def Obligations.TransportErrorIsPrecise : Prop :=
  ∀ (i : Instr) (s t : State), exec i s = .next t → noReset s longest = true → s.env.grain = .command →
    ∃ new, t.trace.bus = new ++ s.trace.bus ∧
      ((new.all eventOk = true ∧ t.block.err ≠ 3) ∨
        ∃ e rest, new = e :: rest ∧ eventOk e = false ∧ rest.all eventOk = true ∧ t.block.err = 3 ∧
          t.block.errInfo = (eventError e).info ∧ t.block.resultValid = false)

/-- R26, R276: a command run whole is its accept step and then block steps, at most 6 transactions and one commit. -/
def Obligations.WholeCommandIsItsBlockSteps : Prop :=
  ∀ (i : Instr) (s : State), s.block.phase = .idle → s.env.grain = .command →
    ∃ t u n, exec i s = .next t ∧
      exec i { s with env := { s.env with grain := .transaction } } = .next u ∧ n ≤ 7 ∧
      blockSteps n u = { t with env := { t.env with grain := .transaction } }

/-- R61, R20: nothing a former command left in the status registers changes what a command does. -/
def Obligations.NoCachingBetweenCommands : Prop :=
  ∀ (i : Instr) (s s' t : State), SameButStatus s s' → exec i s = .next t →
    ∃ t', exec i s' = .next t' ∧ t'.sensor = t.sensor ∧ t'.host = t.host ∧ t'.env = t.env ∧ t'.trace = t.trace ∧
      { t'.block with result := 0 } = { t.block with result := 0 } ∧
      (t.block.resultValid = true → t'.block.result = t.block.result)

/-- R90, R92: what each command's result may be; nine commands have none. -/
def Obligations.ResultsAreInTheirRange : Prop :=
  ∀ (i : Instr) (s t : State), exec i s = .next t → t.block.resultValid = true → ResultFits i t.block.result

/-- R176: no other command than the six issues a transaction to main control. -/
def Obligations.OnlyLatchCommandsTouchMainControl : Prop :=
  ∀ (i : Instr) (s t : State) (new : List BusEvent), s.plat.ok = true → exec i s = .next t →
    t.trace.bus = new ++ s.trace.bus → ¬ clearsTheLatch i →
    ∀ e ∈ new, eventReg e ≠ some Config.regMainControl

/-! ### Invariants of every step -/

/-- The invariant at reset (R45, R46, R8). -/
def Obligations.InvAtReset : Prop := Inv State.reset

/-- Every step keeps the invariant. -/
def Obligations.StepKeepsInv : Prop :=
  ∀ s t : State, Inv s → step s = .next t → Inv t

/-- R51, R68, R50: every transaction a step adds is one the rules allow. -/
def Obligations.BusHistoryStaysLegal : Prop :=
  ∀ s t : State, (∀ e ∈ s.trace.bus, legalEvent s.plat e = true) → step s = .next t →
    ∀ e ∈ t.trace.bus, legalEvent t.plat e = true

/-- R66, R60, R55: in a step that clears the latch, the block issued a write to main control with bit 0 = 0. -/
def Obligations.LatchClearedOnlyByAWrite : Prop :=
  ∀ s t : State, s.plat.ok = true → step s = .next t → s.sensor.latch = true → t.sensor.latch = false →
    ∃ new, t.trace.bus = new ++ s.trace.bus ∧ ∃ e ∈ new, clearsLatch e = true

/-! ### The sensor -/

/-- R65: the latch after a sensor step. -/
def Obligations.SensorStepSetsTheLatch : Prop :=
  ∀ (p : Platform) (d : SensorDraw) (z : Sensor), p.ok = true →
    (sensorStep p d z).latch =
      (z.latch
        || (getBits ((sensorStep p d z).reg p.regTouchStatus) 0 3 &&& ~~~(getBits (z.reg p.regTouchStatus) 0 3)
            &&& getBits (z.reg 0x27) 0 3) != 0
        || d.latch)

/-- R67: no sensor step changes a configuration register, however many fall between two block writes. -/
def Obligations.SensorLeavesConfiguration : Prop :=
  ∀ (p : Platform) (ds : List SensorDraw) (z : Sensor), p.ok = true →
    (∀ a ∈ [(0x1F : Byte), 0x27, 0x60, 0x61], (sensorSteps p ds z).reg a = z.reg a) ∧
    (sensorSteps p ds z).reg 0x00 &&& 0xFE = z.reg 0x00 &&& 0xFE

/-- R64, R65: a sensor step may replace the five status registers with any bytes (one byte where calibration status and
activate are one register); the latch is then what it was, or an enabled pad's having gone from 0 to 1 in those bytes,
or the draw `s`, which may be either. -/
def Obligations.SensorMayDrawAnyStatus : Prop :=
  ∀ (p : Platform) (z : Sensor) (g t b c a : Byte) (l : Bool), p.ok = true →
    (p.regCalStatus = p.regCalActivate → c = a) →
    ∃ d, (sensorStep p d z).reg 0x02 = g ∧ (sensorStep p d z).reg p.regTouchStatus = t ∧
      (sensorStep p d z).reg p.regBcOut = b ∧ (sensorStep p d z).reg p.regCalStatus = c ∧
      (sensorStep p d z).reg p.regCalActivate = a ∧
      (sensorStep p d z).latch =
        (z.latch
          || (getBits t 0 3 &&& ~~~(getBits (z.reg p.regTouchStatus) 0 3) &&& getBits (z.reg 0x27) 0 3) != 0
          || l)

/-! ### Reset -/

/-- R45: the block registers after a block reset, and that reading `RESULT` there faults. -/
def Obligations.BlockResetValues : Prop :=
  (Block.reset.phase = .idle ∧ Block.reset.resultValid = false ∧ Block.reset.err = 0 ∧ Block.reset.errInfo = 0 ∧
    Block.reset.warn = 0 ∧ Block.reset.bcPads = 0 ∧ Block.reset.calPads = 0 ∧ Block.reset.cpc = 0) ∧
  State.reset.block = Block.reset ∧
  (∀ (s : State) (rest : List HostMove), s.block = Block.reset → Settled s.host.boot →
    s.host.moves = .readPort .result :: rest → step s = .fault .resultNotValid)

/-- R260, R261: a reset in BUSY abandons the command with no commit and no transaction; in IDLE, whatever the host's turn
there is (a wait, a word's accept step, a probe, a port move), the step is as from the block registers already reset, so
a command accepted there ends with `CPC` = 1 and a step that accepts no word leaves the reset registers; `SREG` changes
only by the sensor's own steps, and the bus and commit histories stay. The reset record holds the model's choices for
`RESULT` and `done` (log entries 1 and 9); where a connect awaits BRINGUP, it is given up (log entry 11). -/
def Obligations.BlockResetAbandonsTheCommand : Prop :=
  (∀ s : State, s.block.phase ≠ .idle → (s.env.slotAt 0).reset = true →
    ∃ t, step s = .next t ∧ t.block = Block.reset ∧ t.trace = s.trace ∧ t.sensor = (s.arriveN 1).sensor) ∧
  (∀ s : State, s.block.phase = .idle → Settled s.host.boot → s.host.moves = [] →
    ∃ t, step s = .next t ∧ t.block = (if (s.env.slotAt 0).reset then Block.reset else s.block) ∧
      t.trace = s.trace ∧ t.host = s.host ∧ t.sensor = (s.arriveN 1).sensor) ∧
  (∀ (s : State) (c : Slot) (rest : List Slot), s.block.phase = .idle → s.env.sched = c :: rest → c.reset = true →
    (∀ i, exec i s = exec i (resetFirst c rest s)) ∧
    (s.host.boot ≠ .await → step s = step (resetFirst c rest s)) ∧
    (s.host.boot = .await →
      ∃ t, step s = .next t ∧ t.block = Block.reset ∧ t.host.boot = .off ∧ t.trace = s.trace ∧
        t.sensor = (s.arriveN 1).sensor)) ∧
  (∀ s t : State, s.cmd = none → (s.env.slotAt 0).reset = true → step s = .next t →
    t.block = Block.reset ∧ t.trace.commits = s.trace.commits ∧ t.sensor = (s.arriveN 1).sensor) ∧
  (∀ (i : Instr) (s t : State), s.env.grain = .command → (s.env.slotAt 0).reset = true →
    (∀ j, 0 < j → j < longest → (s.env.slotAt j).reset = false) → exec i s = .next t →
    t.block.cpc = 1 ∧ t.block.phase = .idle ∧ ∃ r, t.trace.commits = r :: s.trace.commits) ∧
  (∀ (s : State) (w : CmdWord), s.cmd = some w → illegal w = true → (s.env.slotAt 0).reset = true →
    ∃ t, step s = .next t ∧ t.block.cpc = 1 ∧ t.block.phase = .idle ∧ t.block.err = 1 ∧ t.block.errInfo = w)

/-! ### The ports and the boot protocol -/

/-- R29, R21: the host's read of each output port gets what the port shows, once the sensor steps and the reset of its
slot have happened, in IDLE and in BUSY; it is a fault where the port holds no value; and the host's drive of the codec
inputs is what the codec ports then use. -/
def Obligations.HostReadsEveryPort : Prop :=
  ∀ (s : State) (rest : List HostMove), PortTurn s →
    (∀ p : OutPort, s.host.moves = .readPort p :: rest →
      (∀ v, portShows (found s) p = .ok v →
        step s = .next { found s with host := { s.host with moves := rest, got := v :: s.host.got } }) ∧
      (∀ e, portShows (found s) p = .error e → step s = .fault e)) ∧
    (∀ (b v : Byte) (o : BitVec 3) (w : BitVec 4), s.host.moves = .driveCodec b v o w :: rest →
      step s = .next { found s with host := { s.host with
        moves := rest, cbByte := b, cbValue := v, cbOff := o, cbWid := w } })

/-- R262, R263: the two construction checks, in order, with no transaction and no command. -/
def Obligations.ConnectChecksAddressThenTransport : Prop :=
  ∀ (s : State) (addr : BitVec 32) (tr : Bool) (rest : List HostMove), s.block.phase = .idle →
    Settled s.host.boot → s.host.moves = .connect addr tr :: rest →
    step s = .next { found s with host := { s.host with
      moves := rest
      boot := if addr ≠ 0x28 then .failed 4 addr else if tr = false then .failed 5 0 else .probing 0 } }

/-- R264: up to five probes, one step for each (log entry 11); the first success goes on to the bring-up, and five
failures end in NotConnected. -/
def Obligations.ProbeGivesUpAfterFiveFailures : Prop :=
  ∀ s : State, s.block.phase = .idle → s.host.boot = .probing 0 →
    ((∀ j < 5, writeOk (s.env.slotAt j).reply = false) →
      ∃ t, StepsTo 5 s t ∧ t.host.boot = .failed 6 5 ∧ t.block.phase = .idle ∧
        t.trace.bus = List.replicate 5 (.probe 0x28 false) ++ s.trace.bus) ∧
    (∀ n < 5, (∀ j < n, writeOk (s.env.slotAt j).reply = false) → writeOk (s.env.slotAt n).reply = true →
      ∃ t, StepsTo (n + 1) s t ∧ t.host.boot = .issue ∧ t.block.phase = .idle ∧
        t.trace.bus = .probe 0x28 true :: (List.replicate n (.probe 0x28 false) ++ s.trace.bus))

/-- R265: after a successful probe the host runs BRINGUP, and construction succeeds or fails with its error; a block
reset just before the host reads that error gives the connect up (log entry 11). -/
def Obligations.ConnectEndsWithBringup : Prop :=
  (∀ s : State, s.block.phase = .idle → s.host.boot = .issue →
    step s = exec .bringup { s with host := { s.host with boot := .await } }) ∧
  (∀ s : State, s.block.phase = .idle → s.host.boot = .await →
    step s = .next { found s with host := { s.host with
      boot := if (s.env.slotAt 0).reset then .off else if s.block.err = 0 then .ready
        else .failed s.block.err s.block.errInfo } })
end

