-- ==== Sys2Proof/Laws/Decode.lean ====
section
/-! SUPPORT. The command word as its six fields, both ways (R80, R81), and the decoder's shapes. -/

namespace Sys2Proof

/-- R81: packing the fields of a word gives the word. -/
theorem pack_fieldsOf (w : CmdWord) : pack (fieldsOf w) = w := by
  apply BitVec.eq_of_getLsbD_eq
  intro i hi
  simp only [pack, fieldsOf, BitVec.getLsbD_append, BitVec.getLsbD_extractLsb']
  split_ifs
  all_goals first
    | (rw [Bool.and_eq_right_iff_imp.2]
       · congr 1; omega
       · intro; simp only [decide_eq_true_eq]; omega)

/-- R81: the fields of a packed word are the fields packed. -/
theorem fieldsOf_pack (f : Fields) : fieldsOf (pack f) = f := by
  obtain ⟨opc, a, b, off, wid, rsv⟩ := f
  simp only [fieldsOf, pack, Fields.mk.injEq]
  refine ⟨?_, ?_, ?_, ?_, ?_, ?_⟩ <;> apply BitVec.eq_of_getLsbD_eq <;> intro i hi <;>
    simp only [BitVec.getLsbD_append, BitVec.getLsbD_extractLsb', hi, decide_true, Bool.true_and] <;>
    split_ifs <;> first | omega | (congr 1; omega)

/-- R150 and its like: `OPC ++ 0x00 ++ B ++ 0x00` is the packed word of the typed fields. -/
theorem typedWord_eq (opc b : Byte) : (opc ++ 0x00#8 ++ b ++ 0x00#8 : CmdWord) = pack (typedFields opc b) := by
  apply BitVec.eq_of_toNat_eq
  simp only [pack, typedFields]
  show (opc ++ 0x00#8 ++ b ++ 0x00#8 : BitVec (8 + 8 + 8 + 8)).toNat = _
  simp only [BitVec.toNat_append]
  simp [Nat.shiftLeft_or_distrib, ← Nat.shiftLeft_add]

/-- Two words with the same fields are one word. -/
theorem eq_of_fieldsOf_eq {w w' : CmdWord} (h : fieldsOf w = fieldsOf w') : w = w' := by
  rw [← pack_fieldsOf w, ← pack_fieldsOf w', h]

/-- The decoder on a packed word. -/
theorem decode_pack (f : Fields) : decode (pack f) = decodeFields f := by
  rw [decode, fieldsOf_pack]

/-- The zero check of the typed commands passes exactly when A, OFF, WID and RSV are 0. -/
theorem zerosForTyped_ok (f : Fields) :
    zerosForTyped f = .ok () ↔ f.a = 0 ∧ f.off = 0 ∧ f.wid = 0 ∧ f.rsv = 0 := by
  unfold zerosForTyped
  split_ifs <;> simp_all

/-- A plain command is decoded exactly when every operand field is 0 (R82, "all"). -/
theorem decodePlain_ok (f : Fields) (i j : Instr) :
    decodePlain f i = .ok j ↔ i = j ∧ f = typedFields f.opc 0 := by
  obtain ⟨opc, a, b, off, wid, rsv⟩ := f
  unfold decodePlain zerosForTyped typedFields
  split_ifs <;> simp_all

/-- A typed command is decoded exactly when the other operand fields are 0 and `B` is legal (R82). -/
theorem decodeTyped_ok (f : Fields) (legal : Bool) (i j : Instr) :
    decodeTyped f legal i = .ok j ↔ legal = true ∧ i = j ∧ f = typedFields f.opc f.b := by
  obtain ⟨opc, a, b, off, wid, rsv⟩ := f
  unfold decodeTyped zerosForTyped typedFields
  split_ifs <;> simp_all

/-- A word is ILLEGAL exactly when it decodes to no command (R95). -/
theorem illegal_iff (w : CmdWord) : illegal w = true ↔ ∀ i, decode w ≠ .ok i := by
  unfold illegal
  split <;> simp_all

end Sys2Proof
end

