-- ==== Sys2Proof/Laws/State.lean ====
section
/-! SUPPORT. The small lemmas of the state's updates: one per field per update, true by unfolding the update once, so
that later proofs need not. -/

namespace Sys2Proof.Machine

open Sys2Proof

/-! ### arrive -/

@[simp] theorem State.arrive_block (s : State) : s.arrive.block = s.block := rfl
@[simp] theorem State.arrive_sensor (s : State) :
    s.arrive.sensor =
      sensorSteps s.plat s.env.next.sensor s.sensor := rfl
@[simp] theorem State.arrive_host (s : State) : s.arrive.host = s.host := rfl
@[simp] theorem State.arrive_env (s : State) : s.arrive.env = s.env.advance := rfl
@[simp] theorem State.arrive_plat (s : State) : s.arrive.plat = s.plat := rfl
@[simp] theorem State.arrive_trace (s : State) : s.arrive.trace = s.trace := rfl

/-! ### blockReset -/

@[simp] theorem State.blockReset_block (s : State) : s.blockReset.block = Block.reset := rfl
@[simp] theorem State.blockReset_sensor (s : State) : s.blockReset.sensor = s.sensor := rfl
@[simp] theorem State.blockReset_host (s : State) : s.blockReset.host = s.host := rfl
@[simp] theorem State.blockReset_env (s : State) : s.blockReset.env = s.env := rfl
@[simp] theorem State.blockReset_plat (s : State) : s.blockReset.plat = s.plat := rfl
@[simp] theorem State.blockReset_trace (s : State) : s.blockReset.trace = s.trace := rfl

/-! ### abandon -/

@[simp] theorem State.abandon_block (s : State) : s.abandon.block = Block.reset := rfl
@[simp] theorem State.abandon_sensor (s : State) : s.abandon.sensor = s.sensor := rfl
@[simp] theorem State.abandon_host (s : State) : s.abandon.host = { s.host with boot := s.host.boot.onAbandon } := rfl
@[simp] theorem State.abandon_env (s : State) : s.abandon.env = s.env := rfl
@[simp] theorem State.abandon_plat (s : State) : s.abandon.plat = s.plat := rfl
@[simp] theorem State.abandon_trace (s : State) : s.abandon.trace = s.trace := rfl

/-! ### commit -/

@[simp] theorem State.commit_block (s : State) :
    s.commit.block =
      { s.block with cpc := s.block.cpc + 1, phase := .idle, done := true } := rfl
@[simp] theorem State.commit_sensor (s : State) : s.commit.sensor = s.sensor := rfl
@[simp] theorem State.commit_host (s : State) : s.commit.host = s.host := rfl
@[simp] theorem State.commit_env (s : State) : s.commit.env = s.env := rfl
@[simp] theorem State.commit_plat (s : State) : s.commit.plat = s.plat := rfl
@[simp] theorem State.commit_trace (s : State) :
    s.commit.trace =
      { s.trace with commits := s.block.record :: s.trace.commits } := rfl

/-! ### completeWith -/

@[simp] theorem State.completeWith_block (r : Byte) (s : State) :
    (s.completeWith r).block =
      { s.block with result := r, resultValid := true, cpc := s.block.cpc + 1, phase := .idle, done := true } := rfl
@[simp] theorem State.completeWith_sensor (r : Byte) (s : State) : (s.completeWith r).sensor = s.sensor := rfl
@[simp] theorem State.completeWith_host (r : Byte) (s : State) : (s.completeWith r).host = s.host := rfl
@[simp] theorem State.completeWith_env (r : Byte) (s : State) : (s.completeWith r).env = s.env := rfl
@[simp] theorem State.completeWith_plat (r : Byte) (s : State) : (s.completeWith r).plat = s.plat := rfl
@[simp] theorem State.completeWith_trace (r : Byte) (s : State) :
    (s.completeWith r).trace =
      { s.trace with commits := { s.block with result := r, resultValid := true }.record :: s.trace.commits } := rfl

/-! ### completeNone -/

@[simp] theorem State.completeNone_block (s : State) :
    s.completeNone.block =
      { s.block with cpc := s.block.cpc + 1, phase := .idle, done := true } := rfl
@[simp] theorem State.completeNone_sensor (s : State) : s.completeNone.sensor = s.sensor := rfl
@[simp] theorem State.completeNone_host (s : State) : s.completeNone.host = s.host := rfl
@[simp] theorem State.completeNone_env (s : State) : s.completeNone.env = s.env := rfl
@[simp] theorem State.completeNone_plat (s : State) : s.completeNone.plat = s.plat := rfl
@[simp] theorem State.completeNone_trace (s : State) :
    s.completeNone.trace =
      { s.trace with commits := s.block.record :: s.trace.commits } := rfl

/-! ### raiseError -/

@[simp] theorem State.raiseError_block (e : Error) (s : State) :
    (s.raiseError e).block =
      { s.block with err := e.code, errInfo := e.info, resultValid := false, cpc := s.block.cpc + 1, phase := .idle, done := true } := rfl
@[simp] theorem State.raiseError_sensor (e : Error) (s : State) : (s.raiseError e).sensor = s.sensor := rfl
@[simp] theorem State.raiseError_host (e : Error) (s : State) : (s.raiseError e).host = s.host := rfl
@[simp] theorem State.raiseError_env (e : Error) (s : State) : (s.raiseError e).env = s.env := rfl
@[simp] theorem State.raiseError_plat (e : Error) (s : State) : (s.raiseError e).plat = s.plat := rfl
@[simp] theorem State.raiseError_trace (e : Error) (s : State) :
    (s.raiseError e).trace =
      { s.trace with commits := { s.block with err := e.code, errInfo := e.info, resultValid := false }.record :: s.trace.commits } := rfl

/-! ### logRead -/

@[simp] theorem State.logRead_block (a : Byte) (d : Option Byte) (s : State) : (s.logRead a d).block = s.block := rfl
@[simp] theorem State.logRead_sensor (a : Byte) (d : Option Byte) (s : State) :
    (s.logRead a d).sensor =
      s.sensor := rfl
@[simp] theorem State.logRead_host (a : Byte) (d : Option Byte) (s : State) : (s.logRead a d).host = s.host := rfl
@[simp] theorem State.logRead_env (a : Byte) (d : Option Byte) (s : State) : (s.logRead a d).env = s.env := rfl
@[simp] theorem State.logRead_plat (a : Byte) (d : Option Byte) (s : State) : (s.logRead a d).plat = s.plat := rfl
@[simp] theorem State.logRead_trace (a : Byte) (d : Option Byte) (s : State) :
    (s.logRead a d).trace =
      { s.trace with bus := .read Config.devAddr a d :: s.trace.bus } := rfl

/-! ### logWrite -/

@[simp] theorem State.logWrite_block (a v : Byte) (ok : Bool) (s : State) : (s.logWrite a v ok).block = s.block := rfl
@[simp] theorem State.logWrite_sensor (a v : Byte) (ok : Bool) (s : State) :
    (s.logWrite a v ok).sensor =
      s.sensor := rfl
@[simp] theorem State.logWrite_host (a v : Byte) (ok : Bool) (s : State) : (s.logWrite a v ok).host = s.host := rfl
@[simp] theorem State.logWrite_env (a v : Byte) (ok : Bool) (s : State) : (s.logWrite a v ok).env = s.env := rfl
@[simp] theorem State.logWrite_plat (a v : Byte) (ok : Bool) (s : State) : (s.logWrite a v ok).plat = s.plat := rfl
@[simp] theorem State.logWrite_trace (a v : Byte) (ok : Bool) (s : State) :
    (s.logWrite a v ok).trace =
      { s.trace with bus := .write Config.devAddr a v ok :: s.trace.bus } := rfl

/-! ### storeReg -/

@[simp] theorem State.storeReg_block (a v : Byte) (s : State) : (s.storeReg a v).block = s.block := rfl
@[simp] theorem State.storeReg_sensor (a v : Byte) (s : State) :
    (s.storeReg a v).sensor =
      s.sensor.store s.plat a v := rfl
@[simp] theorem State.storeReg_host (a v : Byte) (s : State) : (s.storeReg a v).host = s.host := rfl
@[simp] theorem State.storeReg_env (a v : Byte) (s : State) : (s.storeReg a v).env = s.env := rfl
@[simp] theorem State.storeReg_plat (a v : Byte) (s : State) : (s.storeReg a v).plat = s.plat := rfl
@[simp] theorem State.storeReg_trace (a v : Byte) (s : State) : (s.storeReg a v).trace = s.trace := rfl

/-! ### doneRead -/

@[simp] theorem State.doneRead_block (a : Byte) (s : State) : (s.doneRead a).block = s.block := rfl
@[simp] theorem State.doneRead_sensor (a : Byte) (s : State) : (s.doneRead a).sensor = s.sensor := rfl
@[simp] theorem State.doneRead_host (a : Byte) (s : State) : (s.doneRead a).host = s.host := rfl
@[simp] theorem State.doneRead_env (a : Byte) (s : State) : (s.doneRead a).env = s.env := rfl
@[simp] theorem State.doneRead_plat (a : Byte) (s : State) : (s.doneRead a).plat = s.plat := rfl
@[simp] theorem State.doneRead_trace (a : Byte) (s : State) :
    (s.doneRead a).trace =
      { s.trace with bus := .read Config.devAddr a (some (s.sensor.reg a)) :: s.trace.bus } := rfl

/-! ### doneWrite -/

@[simp] theorem State.doneWrite_block (a v : Byte) (s : State) : (s.doneWrite a v).block = s.block := rfl
@[simp] theorem State.doneWrite_sensor (a v : Byte) (s : State) :
    (s.doneWrite a v).sensor =
      s.sensor.store s.plat a v := rfl
@[simp] theorem State.doneWrite_host (a v : Byte) (s : State) : (s.doneWrite a v).host = s.host := rfl
@[simp] theorem State.doneWrite_env (a v : Byte) (s : State) : (s.doneWrite a v).env = s.env := rfl
@[simp] theorem State.doneWrite_plat (a v : Byte) (s : State) : (s.doneWrite a v).plat = s.plat := rfl
@[simp] theorem State.doneWrite_trace (a v : Byte) (s : State) :
    (s.doneWrite a v).trace =
      { s.trace with bus := .write Config.devAddr a v true :: s.trace.bus } := rfl

/-! ### warned -/

@[simp] theorem State.warned_block (w : Warning) (s : State) : (s.warned w).block = s.block.applyWarning w := rfl
@[simp] theorem State.warned_sensor (w : Warning) (s : State) : (s.warned w).sensor = s.sensor := rfl
@[simp] theorem State.warned_host (w : Warning) (s : State) : (s.warned w).host = s.host := rfl
@[simp] theorem State.warned_env (w : Warning) (s : State) : (s.warned w).env = s.env := rfl
@[simp] theorem State.warned_plat (w : Warning) (s : State) : (s.warned w).plat = s.plat := rfl
@[simp] theorem State.warned_trace (w : Warning) (s : State) : (s.warned w).trace = s.trace := rfl

/-! ### progress -/

@[simp] theorem State.progress_block (op : Instr) (k : Nat) (l : List Byte) (s : State) :
    (s.progress op k l).block =
      { s.block with phase := .busy op k l } := rfl
@[simp] theorem State.progress_sensor (op : Instr) (k : Nat) (l : List Byte) (s : State) :
    (s.progress op k l).sensor =
      s.sensor := rfl
@[simp] theorem State.progress_host (op : Instr) (k : Nat) (l : List Byte) (s : State) :
    (s.progress op k l).host =
      s.host := rfl
@[simp] theorem State.progress_env (op : Instr) (k : Nat) (l : List Byte) (s : State) :
    (s.progress op k l).env =
      s.env := rfl
@[simp] theorem State.progress_plat (op : Instr) (k : Nat) (l : List Byte) (s : State) :
    (s.progress op k l).plat =
      s.plat := rfl
@[simp] theorem State.progress_trace (op : Instr) (k : Nat) (l : List Byte) (s : State) :
    (s.progress op k l).trace =
      s.trace := rfl

/-! ### popMove -/

@[simp] theorem State.popMove_block (s : State) : s.popMove.block = s.block := rfl
@[simp] theorem State.popMove_sensor (s : State) : s.popMove.sensor = s.sensor := rfl
@[simp] theorem State.popMove_host (s : State) : s.popMove.host = { s.host with moves := s.host.moves.tail } := rfl
@[simp] theorem State.popMove_env (s : State) : s.popMove.env = s.env := rfl
@[simp] theorem State.popMove_plat (s : State) : s.popMove.plat = s.plat := rfl
@[simp] theorem State.popMove_trace (s : State) : s.popMove.trace = s.trace := rfl

/-! ### driveCodec -/

@[simp] theorem driveCodec_block (b v : Byte) (o : BitVec 3) (w : BitVec 4) (s : State) :
    (driveCodec b v o w s).block =
      s.block := rfl
@[simp] theorem driveCodec_sensor (b v : Byte) (o : BitVec 3) (w : BitVec 4) (s : State) :
    (driveCodec b v o w s).sensor =
      s.sensor := rfl
@[simp] theorem driveCodec_host (b v : Byte) (o : BitVec 3) (w : BitVec 4) (s : State) :
    (driveCodec b v o w s).host =
      { s.host with cbByte := b, cbValue := v, cbOff := o, cbWid := w } := rfl
@[simp] theorem driveCodec_env (b v : Byte) (o : BitVec 3) (w : BitVec 4) (s : State) :
    (driveCodec b v o w s).env =
      s.env := rfl
@[simp] theorem driveCodec_plat (b v : Byte) (o : BitVec 3) (w : BitVec 4) (s : State) :
    (driveCodec b v o w s).plat =
      s.plat := rfl
@[simp] theorem driveCodec_trace (b v : Byte) (o : BitVec 3) (w : BitVec 4) (s : State) :
    (driveCodec b v o w s).trace =
      s.trace := rfl

/-! ### connectStart -/

@[simp] theorem connectStart_block (addr : BitVec 32) (tr : Bool) (s : State) :
    (connectStart addr tr s).block =
      s.block := rfl
@[simp] theorem connectStart_sensor (addr : BitVec 32) (tr : Bool) (s : State) :
    (connectStart addr tr s).sensor =
      s.sensor := rfl
@[simp] theorem connectStart_host (addr : BitVec 32) (tr : Bool) (s : State) :
    (connectStart addr tr s).host =
      { s.host with boot := Boot.start addr tr } := rfl
@[simp] theorem connectStart_env (addr : BitVec 32) (tr : Bool) (s : State) :
    (connectStart addr tr s).env =
      s.env := rfl
@[simp] theorem connectStart_plat (addr : BitVec 32) (tr : Bool) (s : State) :
    (connectStart addr tr s).plat =
      s.plat := rfl
@[simp] theorem connectStart_trace (addr : BitVec 32) (tr : Bool) (s : State) :
    (connectStart addr tr s).trace =
      s.trace := rfl

/-! ### awaitBringup -/

@[simp] theorem awaitBringup_block (s : State) : (awaitBringup s).block = s.block := rfl
@[simp] theorem awaitBringup_sensor (s : State) : (awaitBringup s).sensor = s.sensor := rfl
@[simp] theorem awaitBringup_host (s : State) : (awaitBringup s).host = { s.host with boot := .await } := rfl
@[simp] theorem awaitBringup_env (s : State) : (awaitBringup s).env = s.env := rfl
@[simp] theorem awaitBringup_plat (s : State) : (awaitBringup s).plat = s.plat := rfl
@[simp] theorem awaitBringup_trace (s : State) : (awaitBringup s).trace = s.trace := rfl

/-! ### gotRead -/

@[simp] theorem State.gotRead_block (v : PortRead) (s : State) : (s.gotRead v).block = s.block := rfl
@[simp] theorem State.gotRead_sensor (v : PortRead) (s : State) : (s.gotRead v).sensor = s.sensor := rfl
@[simp] theorem State.gotRead_host (v : PortRead) (s : State) :
    (s.gotRead v).host =
      { s.host with got := v :: s.host.got } := rfl
@[simp] theorem State.gotRead_env (v : PortRead) (s : State) : (s.gotRead v).env = s.env := rfl
@[simp] theorem State.gotRead_plat (v : PortRead) (s : State) : (s.gotRead v).plat = s.plat := rfl
@[simp] theorem State.gotRead_trace (v : PortRead) (s : State) : (s.gotRead v).trace = s.trace := rfl

/-! ### Updates that look at the next slot -/

@[simp] theorem State.idleArrive_sensor (s : State) : s.idleArrive.sensor = s.arrive.sensor := by
  unfold State.idleArrive; split <;> rfl
@[simp] theorem State.idleArrive_host (s : State) : s.idleArrive.host = s.host := by
  unfold State.idleArrive; split <;> rfl
@[simp] theorem State.idleArrive_env (s : State) : s.idleArrive.env = s.env.advance := by
  unfold State.idleArrive; split <;> rfl
@[simp] theorem State.idleArrive_plat (s : State) : s.idleArrive.plat = s.plat := by
  unfold State.idleArrive; split <;> rfl
@[simp] theorem State.idleArrive_trace (s : State) : s.idleArrive.trace = s.trace := by
  unfold State.idleArrive; split <;> rfl
theorem State.idleArrive_block (s : State) :
    s.idleArrive.block = if s.env.next.reset then Block.reset else s.block := by
  unfold State.idleArrive; split <;> rfl

/-- What a host step finds does not depend on the moves the host has made. -/
theorem State.popMove_idleArrive (s : State) : s.popMove.idleArrive = s.idleArrive.popMove := by
  show (if s.env.next.reset then s.popMove.arrive.blockReset else s.popMove.arrive) =
    State.popMove (if s.env.next.reset then s.arrive.blockReset else s.arrive)
  cases s.env.next.reset <;> rfl

@[simp] theorem State.accept_sensor (s : State) : s.accept.sensor = s.arrive.sensor := s.idleArrive_sensor
@[simp] theorem State.accept_host (s : State) : s.accept.host = s.host := s.idleArrive_host
@[simp] theorem State.accept_env (s : State) : s.accept.env = s.env.advance := s.idleArrive_env
@[simp] theorem State.accept_plat (s : State) : s.accept.plat = s.plat := s.idleArrive_plat
@[simp] theorem State.accept_trace (s : State) : s.accept.trace = s.trace := s.idleArrive_trace
theorem State.accept_block (s : State) :
    s.accept.block = (if s.env.next.reset then Block.reset else s.block).acceptClear := by
  rw [← s.idleArrive_block]; rfl

/-! ### The environment -/

@[simp] theorem Env.advance_grain (e : Env) : e.advance.grain = e.grain := by
  unfold Env.advance; split <;> rfl

/-- After a block step the coming slots are one nearer. -/
@[simp] theorem Env.slotAt_advance (e : Env) (n : Nat) : e.advance.slotAt n = e.slotAt (n + 1) := by
  obtain ⟨sched, drawn, grain⟩ := e
  cases sched with
  | nil => simp [Env.advance, Env.slotAt]; congr 1; omega
  | cons c cs => simp [Env.advance, Env.slotAt]

/-- Slots are named by `slotAt`. -/
@[simp] theorem Env.next_eq (e : Env) : e.next = e.slotAt 0 := rfl

/-- R26: without a reset before it, the accept step only clears the status registers. -/
theorem State.accept_block_noReset {s : State} (h : (s.env.slotAt 0).reset = false) :
    s.accept.block = s.block.acceptClear := by
  rw [State.accept_block, Env.next_eq, h]; rfl

/-! ### Memory through the state -/

@[simp] theorem Block.applyWarning_phase (b : Block) (w : Warning) : (b.applyWarning w).phase = b.phase := by
  cases w <;> rfl
@[simp] theorem Block.applyWarning_cpc (b : Block) (w : Warning) : (b.applyWarning w).cpc = b.cpc := by
  cases w <;> rfl
@[simp] theorem Block.applyWarning_err (b : Block) (w : Warning) : (b.applyWarning w).err = b.err := by
  cases w <;> rfl
@[simp] theorem Block.applyWarning_errInfo (b : Block) (w : Warning) :
    (b.applyWarning w).errInfo = b.errInfo := by cases w <;> rfl
@[simp] theorem Block.applyWarning_result (b : Block) (w : Warning) :
    (b.applyWarning w).result = b.result := by cases w <;> rfl
@[simp] theorem Block.applyWarning_resultValid (b : Block) (w : Warning) :
    (b.applyWarning w).resultValid = b.resultValid := by cases w <;> rfl
@[simp] theorem Block.applyWarning_done (b : Block) (w : Warning) : (b.applyWarning w).done = b.done := by
  cases w <;> rfl

end Sys2Proof.Machine
end

