-- ==== Sys2Proof/Laws/Memory.lean ====
section
/-! SUPPORT. The laws of `SREG` as memory: a read after a write, and the canonical form, which every operation keeps. -/

namespace Sys2Proof.Machine

open Sys2Proof

/-! ### Reading after writing -/

theorem Memory.read_erase_same (m : Memory) (a : Nat) :
    Memory.read (Memory.erase m a) a = Memory.unlisted := by
  induction m with
  | nil => rfl
  | cons c m ih =>
    obtain ⟨b, w⟩ := c
    by_cases h : b = a
    · simpa [Memory.erase, h] using ih
    · have h' : ¬ a = b := fun e => h e.symm
      simpa [Memory.erase, h, Memory.read, h'] using ih

theorem Memory.read_erase_other (m : Memory) {a c : Nat} (h : c ≠ a) :
    Memory.read (Memory.erase m a) c = Memory.read m c := by
  induction m with
  | nil => rfl
  | cons d m ih =>
    obtain ⟨b, w⟩ := d
    by_cases hb : b = a
    · have hc : ¬ c = b := fun e => h (e.trans hb)
      have : Memory.erase ((b, w) :: m) a = Memory.erase m a := by simp [Memory.erase, hb]
      rw [this, ih]; simp [Memory.read, hc]
    · have : Memory.erase ((b, w) :: m) a = (b, w) :: Memory.erase m a := by simp [Memory.erase, hb]
      rw [this]; simp only [Memory.read, ih]

theorem Memory.read_insert_other (m : Memory) {a c : Nat} (v : Byte) (h : c ≠ a) :
    Memory.read (Memory.insert m a v) c = Memory.read m c := by
  induction m with
  | nil => simp [Memory.insert, Memory.read, h]
  | cons d m ih =>
    obtain ⟨b, w⟩ := d
    by_cases hb : a < b
    · simp [Memory.insert, hb, Memory.read, h]
    · simp only [Memory.insert, hb, if_false, Memory.read, ih]

theorem Memory.read_insert_same (m : Memory) (a : Nat) (v : Byte) :
    Memory.read (Memory.insert (Memory.erase m a) a v) a = v := by
  induction m with
  | nil => simp [Memory.erase, Memory.insert, Memory.read]
  | cons d m ih =>
    obtain ⟨b, w⟩ := d
    by_cases hb : b = a
    · have : Memory.erase ((b, w) :: m) a = Memory.erase m a := by simp [Memory.erase, hb]
      rw [this, ih]
    · have : Memory.erase ((b, w) :: m) a = (b, w) :: Memory.erase m a := by simp [Memory.erase, hb]
      have hb' : ¬ a = b := fun e => hb e.symm
      rw [this]
      by_cases hlt : a < b
      · simp [Memory.insert, hlt, Memory.read]
      · simp only [Memory.insert, hlt, if_false, Memory.read, hb', ih]

/-- A read after a write to the same address gives the byte written. -/
@[simp] theorem Memory.read_write_same (m : Memory) (a : Nat) (v : Byte) : (m.write a v).read a = v := by
  unfold Memory.write
  split
  · rename_i h; rw [Memory.read_erase_same, h]
  · exact Memory.read_insert_same m a v

/-- A write leaves every other address alone. -/
theorem Memory.read_write_other (m : Memory) {a c : Nat} (v : Byte) (h : c ≠ a) :
    (m.write a v).read c = Memory.read m c := by
  unfold Memory.write
  split
  · exact Memory.read_erase_other m h
  · rw [Memory.read_insert_other _ v h, Memory.read_erase_other m h]

@[simp] theorem Sensor.reg_setReg_same (z : Sensor) (a v : Byte) : (z.setReg a v).reg a = v := by
  simp [Sensor.reg, Sensor.setReg]

theorem Sensor.reg_setReg_other (z : Sensor) {a c : Byte} (v : Byte) (h : c ≠ a) :
    (z.setReg a v).reg c = z.reg c :=
  Memory.read_write_other _ _ fun e => h (BitVec.eq_of_toNat_eq e)

theorem Sensor.reg_setReg (z : Sensor) (a c v : Byte) :
    (z.setReg a v).reg c = if c = a then v else z.reg c := by
  split
  · rename_i h; subst h; simp
  · rename_i h; exact z.reg_setReg_other v h

@[simp] theorem Sensor.setReg_calPending (z : Sensor) (a v : Byte) :
    (z.setReg a v).calPending = z.calPending := rfl

theorem Sensor.reg_store (p : Platform) (z : Sensor) (a c v : Byte) :
    (z.store p a v).reg c = if c = a then v else z.reg c := z.reg_setReg a c v

/-! ### The canonical form -/

theorem Memory.wf_cons (a : Nat) (v : Byte) (m : Memory) :
    Memory.wf ((a, v) :: m) = true ↔
      v ≠ Memory.unlisted ∧ a < 256 ∧ (∀ c ∈ m, a < c.1) ∧ Memory.wf m = true := by
  simp [Memory.wf, and_assoc]

theorem Memory.erase_wf {m : Memory} (h : Memory.wf m = true) (a : Nat) : Memory.wf (Memory.erase m a) = true := by
  induction m with
  | nil => rfl
  | cons d m ih =>
    obtain ⟨b, w⟩ := d
    obtain ⟨h1, h2, h3, h4⟩ := (Memory.wf_cons b w m).1 h
    by_cases hb : b = a
    · have : Memory.erase ((b, w) :: m) a = Memory.erase m a := by simp [Memory.erase, hb]
      rw [this]; exact ih h4
    · have : Memory.erase ((b, w) :: m) a = (b, w) :: Memory.erase m a := by simp [Memory.erase, hb]
      rw [this]
      refine (Memory.wf_cons _ _ _).2 ⟨h1, h2, fun c hc => h3 c ?_, ih h4⟩
      exact (List.mem_filter.1 hc).1

theorem Memory.mem_insert {m : Memory} {a : Nat} {v : Byte} {c : Host.Cell} (h : c ∈ Memory.insert m a v) :
    c = (a, v) ∨ c ∈ m := by
  induction m with
  | nil => simpa [Memory.insert] using h
  | cons d m ih =>
    obtain ⟨b, w⟩ := d
    by_cases hlt : a < b
    · simpa [Memory.insert, hlt] using h
    · simp only [Memory.insert, hlt, if_false, List.mem_cons] at h
      rcases h with h | h
      · exact .inr (by simp [h])
      · rcases ih h with h | h
        · exact .inl h
        · exact .inr (List.mem_cons_of_mem _ h)

theorem Memory.insert_wf {m : Memory} (h : Memory.wf m = true) {a : Nat} {v : Byte} (ha : a < 256)
    (hv : v ≠ Memory.unlisted) (hn : ∀ c ∈ m, c.1 ≠ a) : Memory.wf (Memory.insert m a v) = true := by
  induction m with
  | nil => exact (Memory.wf_cons _ _ _).2 ⟨hv, ha, by simp, rfl⟩
  | cons d m ih =>
    obtain ⟨b, w⟩ := d
    obtain ⟨h1, h2, h3, h4⟩ := (Memory.wf_cons b w m).1 h
    have hb : b ≠ a := hn (b, w) (by simp)
    by_cases hlt : a < b
    · simp only [Memory.insert, hlt, if_true]
      refine (Memory.wf_cons _ _ _).2 ⟨hv, ha, fun c hc => ?_, h⟩
      rcases List.mem_cons.1 hc with rfl | hc
      · exact hlt
      · exact Nat.lt_trans hlt (h3 c hc)
    · simp only [Memory.insert, hlt, if_false]
      refine (Memory.wf_cons _ _ _).2 ⟨h1, h2, fun c hc => ?_, ih h4 fun c hc => hn c (List.mem_cons_of_mem _ hc)⟩
      rcases Memory.mem_insert hc with rfl | hc
      · show b < a
        omega
      · exact h3 c hc

/-- A write keeps the canonical form. -/
theorem Memory.write_wf {m : Memory} (h : Memory.wf m = true) {a : Nat} (ha : a < 256) (v : Byte) :
    (m.write a v).wf = true := by
  unfold Memory.write
  split
  · exact Memory.erase_wf h a
  · rename_i hv
    refine Memory.insert_wf (Memory.erase_wf h a) ha hv fun c hc => ?_
    simpa using (List.mem_filter.1 hc).2

theorem Sensor.setReg_wf {z : Sensor} (h : z.sreg.wf = true) (a v : Byte) : (z.setReg a v).sreg.wf = true :=
  Memory.write_wf h a.isLt v

theorem Sensor.store_wf (p : Platform) {z : Sensor} (h : z.sreg.wf = true) (a v : Byte) :
    (z.store p a v).sreg.wf = true := Memory.write_wf h a.isLt v

theorem Sensor.redraw_wf {z : Sensor} (h : z.sreg.wf = true) (a : Byte) (d : Option Byte) :
    (z.redraw a d).sreg.wf = true := by
  cases d with
  | none => exact h
  | some v => exact Sensor.setReg_wf h a v

theorem Sensor.setLatch_wf {z : Sensor} (h : z.sreg.wf = true) (on : Bool) : (z.setLatch on).sreg.wf = true := by
  unfold Sensor.setLatch
  split
  · exact Sensor.setReg_wf h _ _
  · exact h

/-- Sensor steps keep the canonical form. -/
theorem sensorSteps_wf (p : Platform) (ds : List SensorDraw) {z : Sensor} (h : z.sreg.wf = true) :
    (sensorSteps p ds z).sreg.wf = true := by
  induction ds generalizing z with
  | nil => exact h
  | cons d ds ih =>
    exact ih (Sensor.setLatch_wf (Sensor.redraw_wf (Sensor.redraw_wf (Sensor.redraw_wf (Sensor.redraw_wf
      (Sensor.redraw_wf h _ _) _ _) _ _) _ _) _ _) _)

/-- Reset's memory is canonical. -/
theorem State.reset_wf : State.reset.sensor.sreg.wf = true := rfl

end Sys2Proof.Machine
end

