-- ==== Sys2Proof/Laws/Operands.lean ====
section
/-! SUPPORT. The bit-field codec bit by bit (R110), which the laws of R114 to R117 follow from. -/

namespace Sys2Proof.Machine

open Sys2Proof

/-- Bit `i` of the mask of width `w`. -/
theorem mask_getLsbD (w i : Nat) : (mask w).getLsbD i = (decide (i < 8) && decide (i < w)) := by
  simp [mask, BitVec.getLsbD_ofNat, Nat.testBit_two_pow_sub_one]

/-- Bit `i` of a field read is bit `o + i` of the byte, within the width. -/
theorem getBits_getLsbD (b : Byte) (o w i : Nat) :
    (getBits b o w).getLsbD i = (decide (i < w) && b.getLsbD (o + i)) := by
  simp only [getBits, BitVec.getLsbD_and, BitVec.getLsbD_ushiftRight, mask_getLsbD]
  by_cases h : i < 8
  · simp [h, Bool.and_comm]
  · simp [BitVec.getLsbD_of_ge b (o + i) (by omega)]

/-- A byte with a field replaced: the value's bits inside the field, the byte's own bits outside. -/
theorem setBits_getLsbD (b v : Byte) (o w i : Nat) (h : o + w ≤ 8) :
    (setBits b v o w).getLsbD i = if o ≤ i ∧ i < o + w then v.getLsbD (i - o) else b.getLsbD i := by
  simp only [setBits, BitVec.getLsbD_or, BitVec.getLsbD_and, BitVec.getLsbD_not, BitVec.getLsbD_shiftLeft,
    mask_getLsbD]
  by_cases hi : i < 8
  · rcases Nat.lt_or_ge i o with h1 | h1
    · simp [hi, h1, show ¬ (o ≤ i ∧ i < o + w) by omega]
    · rcases Nat.lt_or_ge i (o + w) with h2 | h2
      · simp [show ¬ i < o by omega, show i - o < w by omega, show i - o < 8 by omega, h1, h2, hi]
      · simp [show ¬ i < o by omega, show ¬ i - o < w by omega, show i - o < 8 by omega, h1, hi,
          show ¬ i < o + w by omega]
  · simp [hi, BitVec.getLsbD_of_ge b i (by omega), show ¬ (o ≤ i ∧ i < o + w) by omega]

end Sys2Proof.Machine
end

