-- ==== Sys2Proof/Laws/Sensor.lean ====
section
/-! SUPPORT. What the sensor's steps change and what they leave (R64 to R67). -/

namespace Sys2Proof.Machine

open Sys2Proof

/-! ### The platform's constraints (R8) -/

/-- The six fixed registers differ from the four OPEN ones. -/
theorem Platform.ok_fixed_ne {p : Platform} (h : p.ok = true) {a : Byte} (ha : a ∈ Config.fixedRegs) :
    a ≠ p.regTouchStatus ∧ a ≠ p.regBcOut ∧ a ≠ p.regCalStatus ∧ a ≠ p.regCalActivate := by
  have h1 : p.regTouchStatus ∉ Config.fixedRegs ∧ p.regBcOut ∉ Config.fixedRegs ∧
      p.regCalStatus ∉ Config.fixedRegs ∧ p.regCalActivate ∉ Config.fixedRegs := by
    simp only [Platform.ok, Bool.and_eq_true, Bool.not_eq_true', List.contains_eq_mem,
      decide_eq_false_iff_not] at h
    exact ⟨by tauto, by tauto, by tauto, by tauto⟩
  refine ⟨?_, ?_, ?_, ?_⟩ <;> rintro rfl <;> tauto

/-- The registers the setters and getters use are none that a sensor step changes (R42). -/
theorem Platform.ok_config_left {p : Platform} (h : p.ok = true) {a : Byte} (ha : a ∈ Config.fixedRegs)
    (h0 : a ≠ Config.regMainControl) (h2 : a ≠ Config.regGeneralStatus) : sensorLeaves p a = true := by
  obtain ⟨h3, h4, h5, h6⟩ := Platform.ok_fixed_ne h ha
  simp [sensorLeaves, h0, h2, h3, h4, h5, h6]

/-- Some admissible platform is the one a machine starts with. -/
theorem Config.platform_ok : Config.platform.ok = true := by
  unfold Config.platform
  split
  · rename_i h
    simpa [Platform.ok] using h
  · decide

/-! ### One sensor step -/

theorem Sensor.redraw_reg_other (z : Sensor) {a c : Byte} (d : Option Byte) (h : c ≠ a) :
    (z.redraw a d).reg c = z.reg c := by
  cases d with
  | none => rfl
  | some v => exact z.reg_setReg_other v h

/-- The draws leave every register but the five they name (R64). -/
theorem Sensor.redrawAll_reg_other (p : Platform) (d : SensorDraw) (z : Sensor) {a : Byte}
    (h0 : a ≠ Config.regGeneralStatus) (h1 : a ≠ p.regTouchStatus) (h2 : a ≠ p.regBcOut)
    (h3 : a ≠ p.regCalStatus) (h4 : a ≠ p.regCalActivate) :
    (Sensor.redrawAll p d z).reg a = z.reg a := by
  unfold Sensor.redrawAll
  rw [Sensor.redraw_reg_other _ _ h4, Sensor.redraw_reg_other _ _ h3, Sensor.redraw_reg_other _ _ h2,
    Sensor.redraw_reg_other _ _ h1, Sensor.redraw_reg_other _ _ h0]

theorem Sensor.setLatch_reg_other (z : Sensor) (on : Bool) {a : Byte} (h : a ≠ Config.regMainControl) :
    (z.setLatch on).reg a = z.reg a := by
  unfold Sensor.setLatch
  split
  · exact z.reg_setReg_other _ h
  · rfl

theorem Sensor.setLatch_main (z : Sensor) (on : Bool) :
    (z.setLatch on).reg Config.regMainControl =
      if on then z.reg Config.regMainControl ||| 0x01 else z.reg Config.regMainControl := by
  unfold Sensor.setLatch
  split <;> simp

/-- A sensor step leaves the configuration registers (R67), and those no rule names (log entry 20). -/
theorem sensorStep_reg_left {p : Platform} {a : Byte} (h : sensorLeaves p a = true) (d : SensorDraw)
    (z : Sensor) : (sensorStep p d z).reg a = z.reg a := by
  simp only [sensorLeaves, List.contains_cons, List.contains_nil, Bool.not_eq_true', Bool.or_eq_false_iff,
    beq_eq_false_iff_ne, ne_eq] at h
  obtain ⟨h0, h1, h2, h3, h4, h5, -⟩ := h
  exact (Sensor.setLatch_reg_other _ _ h0).trans (Sensor.redrawAll_reg_other p d z h1 h2 h3 h4 h5)

theorem sensorSteps_reg_left {p : Platform} {a : Byte} (h : sensorLeaves p a = true) (ds : List SensorDraw)
    (z : Sensor) : (sensorSteps p ds z).reg a = z.reg a := by
  induction ds generalizing z with
  | nil => rfl
  | cons d ds ih => exact (ih _).trans (sensorStep_reg_left h d z)

/-- R65, R67 on main control: a sensor step only ever sets bit 0 there. -/
theorem sensorStep_main {p : Platform} (h : p.ok = true) (d : SensorDraw) (z : Sensor) :
    (sensorStep p d z).reg Config.regMainControl =
      if pressed p z (Sensor.redrawAll p d z) || d.latch then z.reg Config.regMainControl ||| 0x01
      else z.reg Config.regMainControl := by
  obtain ⟨h1, h2, h3, h4⟩ := Platform.ok_fixed_ne h (a := Config.regMainControl) (by decide)
  have hr : (Sensor.redrawAll p d z).reg Config.regMainControl = z.reg Config.regMainControl :=
    Sensor.redrawAll_reg_other p d z (by decide) h1 h2 h3 h4
  exact (Sensor.setLatch_main _ _).trans (by rw [hr])

end Sys2Proof.Machine
end

