-- ==== Sys2Proof/Laws/Ops.lean ====
section
/-! SUPPORT. What a command's run can do, said once: the induction over its pseudocode, and which transactions each
pseudocode holds. -/

namespace Sys2Proof.Machine

open Sys2Proof

/-- Every command is one accept step and its pseudocode (R26). -/
theorem exec_eq_begin (i : Instr) (s : State) :
    exec i s = beginCommand i (acceptCheck i) (scriptOf s.plat i) s := by
  cases i <;> rfl

/-- Only the codec commands are checked at accept (R113). -/
theorem acceptCheck_cases (i : Instr) :
    acceptCheck i = none ∨ ∃ off wid, rangeOk off wid = false ∧ acceptCheck i = some (.fieldRange off wid) := by
  cases i <;> first
    | exact .inl rfl
    | (rename_i off wid
       simp only [acceptCheck, rangeError]
       by_cases h : rangeOk off wid = true
       · simp [h]
       · exact .inr ⟨off, wid, by simpa using h, by simp [h]⟩)

/-- Every transaction the pseudocode can issue: `R` of the registers read, `W` of the writes. -/
def Script.Allows (R : Byte → Prop) (W : Byte → Byte → Prop) : Script → Prop
  | .read a rest => R a ∧ ∀ b, (rest b).Allows R W
  | .write a v rest => W a v ∧ rest.Allows R W
  | .warn _ rest => rest.Allows R W
  | .result _ => True
  | .finish => True

/-- What a command's run keeps: `P` holds while it goes on, `Q` of every way it ends. -/
theorem runScript_induction {R : Byte → Prop} {W : Byte → Byte → Prop} {P Q : State → Prop}
    (hread : ∀ a s, R a → P s → s.env.next.reset = false → readOk s.env.next.reply = true → P (s.arrive.doneRead a))
    (hwrite : ∀ a v s, W a v → P s → s.env.next.reset = false → writeOk s.env.next.reply = true →
      P (s.arrive.doneWrite a v))
    (hwarn : ∀ w s, P s → P (s.warned w))
    (hreset : ∀ s, P s → s.env.next.reset = true → Q s.arrive.abandon)
    (hfailRead : ∀ a s, R a → P s → s.env.next.reset = false → readOk s.env.next.reply = false →
      Q (s.arrive.failRead a))
    (hfailWrite : ∀ a v s, W a v → P s → s.env.next.reset = false → writeOk s.env.next.reply = false →
      Q (s.arrive.failWrite a v s.env.next.landed))
    (hresult : ∀ r s, P s → s.env.next.reset = false → Q (s.arrive.completeWith r))
    (hfinish : ∀ s, P s → s.env.next.reset = false → Q s.arrive.completeNone)
    (scr : Script) (hall : scr.Allows R W) (s : State) (hs : P s) : Q (runScript scr s) := by
  induction scr generalizing s with
  | read a rest ih =>
    simp only [runScript]
    cases hr : s.env.next.reset <;> simp only [Bool.false_eq_true, if_false, if_true]
    · cases ho : readOk s.env.next.reply <;> simp only [Bool.false_eq_true, if_false, if_true]
      · exact hfailRead a s hall.1 hs hr ho
      · exact ih _ (hall.2 _) _ (hread a s hall.1 hs hr ho)
    · exact hreset s hs hr
  | write a v rest ih =>
    simp only [runScript]
    cases hr : s.env.next.reset <;> simp only [Bool.false_eq_true, if_false, if_true]
    · cases ho : writeOk s.env.next.reply <;> simp only [Bool.false_eq_true, if_false, if_true]
      · exact hfailWrite a v s hall.1 hs hr ho
      · exact ih hall.2 _ (hwrite a v s hall.1 hs hr ho)
    · exact hreset s hs hr
  | warn w rest ih => exact ih hall _ (hwarn w s hs)
  | result r =>
    simp only [runScript]
    cases hr : s.env.next.reset <;> simp only [Bool.false_eq_true, if_false, if_true]
    · exact hresult r s hs hr
    · exact hreset s hs hr
  | finish =>
    simp only [runScript]
    cases hr : s.env.next.reset <;> simp only [Bool.false_eq_true, if_false, if_true]
    · exact hfinish s hs hr
    · exact hreset s hs hr

/-- R170: the byte the `RMW` clear writes has bit 0 = 0. -/
theorem setBits_clears_bit0 (b : Byte) : (setBits b 0 0 1)[0] = false := by
  simp [setBits, mask]

/-- The latch clear's transactions are allowed in either mode (R170, R68). -/
theorem clearLatch_allows (p : Platform) {rest : Script}
    (h : rest.Allows (fun a => mayRead p a = true) (fun a v => mayWrite p a v = true)) :
    (Script.clearLatch p.latchMode rest).Allows (fun a => mayRead p a = true)
      (fun a v => mayWrite p a v = true) := by
  cases hm : p.latchMode with
  | blindZero => exact ⟨by simp [mayWrite], h⟩
  | rmw => exact ⟨by simp [mayRead, hm], fun b => ⟨by have := setBits_clears_bit0 b; simp_all [mayWrite], h⟩⟩

/-- The registers a command's pseudocode may read and what it may write are those of R51 and R68. -/
theorem scriptOf_allows (p : Platform) (i : Instr) :
    (scriptOf p i).Allows (fun a => mayRead p a = true) (fun a v => mayWrite p a v = true) := by
  have modify : ∀ (a v : Byte) (o w : Nat) (rest : Script), mayRead p a = true → (∀ v, mayWrite p a v = true) →
      rest.Allows (fun a => mayRead p a = true) (fun a v => mayWrite p a v = true) →
      (Script.modify a v o w rest).Allows (fun a => mayRead p a = true) (fun a v => mayWrite p a v = true) :=
    fun a v o w rest hr hw h => ⟨hr, fun _ => ⟨hw _, h⟩⟩
  have field : ∀ (a : Byte) (o w : Nat), mayRead p a = true →
      (Script.field a o w).Allows (fun a => mayRead p a = true) (fun a v => mayWrite p a v = true) :=
    fun a o w hr => ⟨hr, fun _ => trivial⟩
  have answer : ∀ (pos : Bool) (r : Byte), (Script.answer p.latchMode pos r).Allows
      (fun a => mayRead p a = true) (fun a v => mayWrite p a v = true) := by
    intro pos r
    unfold Script.answer
    split
    · exact clearLatch_allows p trivial
    · trivial
  have sens : mayRead p Config.regSensitivity = true ∧ ∀ v, mayWrite p Config.regSensitivity v = true := by
    simp [mayRead, mayWrite]
  have ie : mayRead p Config.regIntEnable = true ∧ ∀ v, mayWrite p Config.regIntEnable v = true := by
    simp [mayRead, mayWrite]
  have pb : mayRead p Config.regPb = true ∧ ∀ v, mayWrite p Config.regPb v = true := by
    simp [mayRead, mayWrite]
  have pbc : mayRead p Config.regPbConfig = true ∧ ∀ v, mayWrite p Config.regPbConfig v = true := by
    simp [mayRead, mayWrite]
  have gs : mayRead p Config.regGeneralStatus = true := by simp [mayRead]
  have touch : mayRead p p.regTouchStatus = true := by simp [mayRead]
  have cal : ∀ g bc, (scriptChksCal p g bc).Allows (fun a => mayRead p a = true)
      (fun a v => mayWrite p a v = true) := by
    intro g bc
    unfold scriptChksCal
    split
    · exact ⟨by simp [mayRead], fun _ => trivial⟩
    · trivial
  cases i with
  | getb => trivial
  | setb => trivial
  | bringup =>
    exact modify _ _ _ _ _ sens.1 sens.2 (modify _ _ _ _ _ ie.1 ie.2 (clearLatch_allows p trivial))
  | chks =>
    refine ⟨gs, fun g => ?_⟩
    dsimp only
    split
    · exact ⟨by simp [mayRead], fun b => cal _ _⟩
    · exact cal _ _
  | recal => exact ⟨by simp [mayWrite], trivial⟩
  | ssens => exact modify _ _ _ _ _ sens.1 sens.2 trivial
  | gsens => exact field _ _ _ sens.1
  | siep => exact modify _ _ _ _ _ ie.1 ie.2 trivial
  | siea => exact modify _ _ _ _ _ ie.1 ie.2 trivial
  | gie => exact field _ _ _ ie.1
  | clri => exact clearLatch_allows p trivial
  | chkt => exact field _ _ _ touch
  | gett => exact ⟨touch, fun _ => answer _ _⟩
  | ist => exact ⟨gs, fun _ => answer _ _⟩
  | ispt => exact ⟨touch, fun _ => answer _ _⟩
  | isls => trivial
  | isrs => trivial
  | spbp => exact modify _ _ _ _ _ pb.1 pb.2 trivial
  | gpbp => exact field _ _ _ pb.1
  | spbt => exact modify _ _ _ _ _ pbc.1 pbc.2 trivial
  | gpbt => exact field _ _ _ pbc.1
  | spbe => exact modify _ _ _ _ _ pbc.1 pbc.2 trivial
  | gpbe => exact field _ _ _ pbc.1
  | ispb => exact ⟨gs, fun _ => answer _ _⟩

/-! ### What a command leaves alone -/

/-- A command's outcome: refused while BUSY (R267), else a next state (R276). -/
theorem exec_outcome (i : Instr) (s : State) :
    (s.cmdReady = false ∧ exec i s = .refused .commandWhileBusy) ∨
      s.cmdReady = true ∧ ∃ t, exec i s = .next t := by
  rw [exec_eq_begin]
  unfold beginCommand State.cmdReady
  cases s.block.phase <;> simp

/-- The three ways a command accepted in IDLE goes on (R26): its error at accept, its pseudocode, or the accept step
alone. -/
theorem exec_cases {i : Instr} {s t : State} (h : exec i s = .next t) :
    s.block.phase = .idle ∧
      ((∃ e, acceptCheck i = some e ∧ t = s.accept.raiseError e) ∨
        (acceptCheck i = none ∧ s.env.grain = .command ∧
          t = runScript (scriptOf s.plat i) (s.accept.progress i 0 [])) ∨
        (acceptCheck i = none ∧ s.env.grain = .transaction ∧ t = s.accept.progress i 0 [])) := by
  rw [exec_eq_begin] at h
  unfold beginCommand at h
  cases hp : s.block.phase with
  | busy op k l => simp [hp] at h
  | idle =>
    rw [hp] at h
    refine ⟨rfl, ?_⟩
    cases hc : acceptCheck i with
    | some e => rw [hc] at h; exact .inl ⟨e, rfl, by simpa using h.symm⟩
    | none =>
      rw [hc] at h
      cases hg : s.env.grain with
      | command => rw [hg] at h; exact .inr (.inl ⟨rfl, rfl, by simpa using h.symm⟩)
      | transaction => rw [hg] at h; exact .inr (.inr ⟨rfl, rfl, by simpa using h.symm⟩)

/-- A command accepted in IDLE with the whole-command grain runs its pseudocode. -/
theorem exec_runs {i : Instr} {s : State} (hp : s.cmdReady = true) (hg : s.env.grain = .command)
    (hc : acceptCheck i = none) :
    exec i s = .next (runScript (scriptOf s.plat i) (s.accept.progress i 0 [])) := by
  rw [exec_eq_begin]
  unfold beginCommand
  unfold State.cmdReady at hp
  cases h : s.block.phase with
  | busy op k l => simp [h] at hp
  | idle => simp [hc, hg]

/-! ### The premises of the command statements -/

/-- What `runsWell` says, fact by fact. -/
theorem runsWell_facts {s : State} {ks : List BusKind} (h : runsWell s ks = true) :
    s.cmdReady = true ∧ s.env.grain = .command ∧ (s.env.slotAt 0).reset = false ∧
      answersFrom s.env 1 ks = true ∧ (s.env.slotAt (ks.length + 1)).reset = false := by
  simpa [runsWell, accepting, and_assoc] using h

/-- What `failsAt` says, fact by fact. -/
theorem failsAt_facts {s : State} {ks : List BusKind} {k : BusKind} (h : failsAt s ks k = true) :
    s.cmdReady = true ∧ s.env.grain = .command ∧ (s.env.slotAt 0).reset = false ∧
      answersFrom s.env 1 ks = true ∧ (s.env.slotAt (ks.length + 1)).reset = false ∧
      replyOk k (s.env.slotAt (ks.length + 1)).reply = false := by
  simpa [failsAt, accepting, and_assoc] using h

/-- The host's turn while no connect is in progress (R267). -/
theorem idleTurn_settled {s : State} (h : s.host.boot = .off ∨ s.host.boot = .ready ∨ ∃ c i, s.host.boot = .failed c i) :
    idleTurn s = hostTurn s := by
  unfold idleTurn
  rcases h with h | h | ⟨c, i, h⟩ <;> rw [h]

end Sys2Proof.Machine
end

