-- ==== Sys2Proof/Laws/PerInstr.lean ====
section
/-! SUPPORT. What holds of every command's word, one lemma per constructor. -/

namespace Sys2Proof.Laws.Encoding

open Sys2Proof

/-- R80, R82: the opcode of a command stands in bits 31 to 24 of its word, and the reserved bit 0 is 0. -/
def Statement (i : Instr) : Prop :=
  (encode i).extractLsb' 24 8 = opcodeOf i ∧ (encode i).extractLsb' 0 1 = 0

/-- The two fields of a packed word. -/
theorem of_fields {i : Instr} (ho : (encodeFields i).opc = opcodeOf i) (hr : (encodeFields i).rsv = 0) : Statement i :=
  have h := fieldsOf_pack (encodeFields i)
  ⟨(congrArg Fields.opc h).trans ho, (congrArg Fields.rsv h).trans hr⟩

theorem getb (a : Byte) (off : BitVec 3) (wid : BitVec 4) : Statement (.getb a off wid) := of_fields rfl rfl
theorem setb (a b : Byte) (off : BitVec 3) (wid : BitVec 4) : Statement (.setb a b off wid) := of_fields rfl rfl
theorem bringup : Statement .bringup := of_fields rfl rfl
theorem chks : Statement .chks := of_fields rfl rfl
theorem recal : Statement .recal := of_fields rfl rfl
theorem ssens (level : BitVec 3) : Statement (.ssens level) := of_fields rfl rfl
theorem gsens : Statement .gsens := of_fields rfl rfl
theorem siep (pads : PadSet) : Statement (.siep pads) := of_fields rfl rfl
theorem siea (on : Bool) : Statement (.siea on) := of_fields rfl rfl
theorem gie : Statement .gie := of_fields rfl rfl
theorem clri : Statement .clri := of_fields rfl rfl
theorem chkt : Statement .chkt := of_fields rfl rfl
theorem gett : Statement .gett := of_fields rfl rfl
theorem ist : Statement .ist := of_fields rfl rfl
theorem ispt (pad : PadSet) : Statement (.ispt pad) := of_fields rfl rfl
theorem isls : Statement .isls := of_fields rfl rfl
theorem isrs : Statement .isrs := of_fields rfl rfl
theorem spbp (pads : PadSet) : Statement (.spbp pads) := of_fields rfl rfl
theorem gpbp : Statement .gpbp := of_fields rfl rfl
theorem spbt (time : BitVec 2) : Statement (.spbt time) := of_fields rfl rfl
theorem gpbt : Statement .gpbt := of_fields rfl rfl
theorem spbe (on : Bool) : Statement (.spbe on) := of_fields rfl rfl
theorem gpbe : Statement .gpbe := of_fields rfl rfl
theorem ispb : Statement .ispb := of_fields rfl rfl

end Sys2Proof.Laws.Encoding
end

