-- ==== Sys2Proof/Laws/Step.lean ====
section
/-! SUPPORT. What one step can do, said once: the block's steps over any pseudocode, and the inversion of `step`. -/

namespace Sys2Proof.Machine

open Sys2Proof

/-! ### A block step -/

/-- What is left of a pseudocode issues no transaction that the whole of it does not. -/
theorem Script.Allows.resume {R : Byte → Prop} {W : Byte → Byte → Prop} {scr : Script} (h : scr.Allows R W) (k : Nat)
    (bs : List Byte) : (scr.resume k bs).Allows R W := by
  induction scr generalizing k bs with
  | read a rest ih =>
    cases k with
    | zero => simpa [Script.resume] using h
    | succ k =>
      cases bs with
      | nil => simpa [Script.resume] using h
      | cons b bs => exact ih b (h.2 b) k bs
  | write a v rest ih =>
    cases k with
    | zero => simpa [Script.resume] using h
    | succ k => exact ih h.2 k bs
  | warn w rest ih =>
    cases k with
    | zero => simpa [Script.resume] using h
    | succ k => exact ih h (k + 1) bs
  | result r => simpa [Script.resume] using h
  | finish => simpa [Script.resume] using h

/-- What one block step of a pseudocode can do: after its warnings, one transaction that succeeds or fails, or the
commit, or the reset that falls before it (R26, R54, R55, R260). -/
theorem scriptStep_induction {R : Byte → Prop} {W : Byte → Byte → Prop} {P Q : State → Prop} {op : Instr} {k : Nat}
    {locals : List Byte}
    (hread : ∀ a s, R a → P s → s.env.next.reset = false → readOk s.env.next.reply = true →
      Q ((s.arrive.doneRead a).progress op (k + 1) (locals ++ [s.arrive.sensor.reg a])))
    (hwrite : ∀ a v s, W a v → P s → s.env.next.reset = false → writeOk s.env.next.reply = true →
      Q ((s.arrive.doneWrite a v).progress op (k + 1) locals))
    (hwarn : ∀ w s, P s → P (s.warned w))
    (hreset : ∀ s, P s → s.env.next.reset = true → Q s.arrive.abandon)
    (hfailRead : ∀ a s, R a → P s → s.env.next.reset = false → readOk s.env.next.reply = false →
      Q (s.arrive.failRead a))
    (hfailWrite : ∀ a v s, W a v → P s → s.env.next.reset = false → writeOk s.env.next.reply = false →
      Q (s.arrive.failWrite a v s.env.next.landed))
    (hresult : ∀ r s, P s → s.env.next.reset = false → Q (s.arrive.completeWith r))
    (hfinish : ∀ s, P s → s.env.next.reset = false → Q s.arrive.completeNone)
    (scr : Script) (hall : scr.Allows R W) (s : State) (hs : P s) : Q (scriptStep op k locals scr s) := by
  induction scr generalizing s with
  | read a rest _ =>
    simp only [scriptStep]
    cases hr : s.env.next.reset <;> simp only [Bool.false_eq_true, if_false, if_true]
    · cases ho : readOk s.env.next.reply <;> simp only [Bool.false_eq_true, if_false, if_true]
      · exact hfailRead a s hall.1 hs hr ho
      · exact hread a s hall.1 hs hr ho
    · exact hreset s hs hr
  | write a v rest _ =>
    simp only [scriptStep]
    cases hr : s.env.next.reset <;> simp only [Bool.false_eq_true, if_false, if_true]
    · cases ho : writeOk s.env.next.reply <;> simp only [Bool.false_eq_true, if_false, if_true]
      · exact hfailWrite a v s hall.1 hs hr ho
      · exact hwrite a v s hall.1 hs hr ho
    · exact hreset s hs hr
  | warn w rest ih => exact ih hall _ (hwarn w s hs)
  | result r =>
    simp only [scriptStep]
    cases hr : s.env.next.reset <;> simp only [Bool.false_eq_true, if_false, if_true]
    · exact hresult r s hs hr
    · exact hreset s hs hr
  | finish =>
    simp only [scriptStep]
    cases hr : s.env.next.reset <;> simp only [Bool.false_eq_true, if_false, if_true]
    · exact hfinish s hs hr
    · exact hreset s hs hr

/-! ### The step -/

/-- The two states differ at most in the host's own record (R29, R262, R265). -/
def HostOnly (s t : State) : Prop :=
  t.block = s.block ∧ t.sensor = s.sensor ∧ t.env = s.env ∧ t.plat = s.plat ∧ t.trace = s.trace

theorem HostOnly.trans {s u t : State} (h : HostOnly s u) (h' : HostOnly u t) : HostOnly s t :=
  ⟨h'.1.trans h.1, h'.2.1.trans h.2.1, h'.2.2.1.trans h.2.2.1, h'.2.2.2.1.trans h.2.2.2.1,
    h'.2.2.2.2.trans h.2.2.2.2⟩

/-- A change of the host's record alone. -/
theorem HostOnly.ofHost (s : State) (host : HostAgent) : HostOnly s { s with host := host } := ⟨rfl, rfl, rfl, rfl, rfl⟩

/-- What a host step finds does not depend on the host's record. -/
theorem HostOnly.idleArrive {s u : State} (h : HostOnly s u) : HostOnly s.idleArrive u.idleArrive := by
  obtain ⟨hb, hs, he, hp, ht⟩ := h
  exact ⟨by rw [State.idleArrive_block, State.idleArrive_block, he, hb], by simp [hs, he, hp], by simp [he], by simp [hp],
    by simp [ht]⟩

/-- A read of a port that does not fault changes the host's record only (R29). -/
theorem readPort_hostOnly {p : OutPort} {s t : State} (h : readPort p s = .next t) : HostOnly s t := by
  unfold readPort at h
  split at h
  · simp only [Host.Outcome.next.injEq] at h; subst h; exact HostOnly.ofHost s _
  · simp at h

/-- A move on the ports takes a slot and changes the host's record only. -/
theorem hostMove_onPorts {m : HostMove} {s t : State} (hm : m.onPorts = true) (h : hostMove m s = .next t) :
    HostOnly s.idleArrive t := by
  cases m with
  | present w => simp [HostMove.onPorts] at hm
  | connect addr tr => simp [HostMove.onPorts] at hm
  | readPort p => exact readPort_hostOnly h
  | driveCodec b v o w => simp only [hostMove, Host.Outcome.next.injEq] at h; subst h; exact HostOnly.ofHost _ _

/-- Accepting a word: a command, or IllegalCommand (R26, R231). -/
theorem acceptWord_cases {w : CmdWord} {s t : State} (h : acceptWord w s = .next t) :
    (∃ i, decode w = .ok i ∧ exec i s = .next t) ∨ (illegal w = true ∧ t = acceptIllegal w s) := by
  unfold acceptWord at h
  cases hd : decode w with
  | ok i => rw [hd] at h; exact .inl ⟨i, rfl, h⟩
  | error e => rw [hd] at h; exact .inr ⟨by simp [illegal, hd], by simpa using h.symm⟩

/-- The host's turn: the word it has ready is accepted; with none, only its record changes, a slot being taken. -/
theorem hostTurn_cases {s t : State} (h : hostTurn s = .next t) :
    (∃ w, s.host.moves.head?.bind HostMove.word = some w ∧ acceptWord w s.popMove = .next t) ∨
      (s.host.moves.head?.bind HostMove.word = none ∧ HostOnly s.idleArrive t) := by
  have pop : HostOnly s.idleArrive s.popMove.idleArrive := (HostOnly.ofHost s _).idleArrive
  unfold hostTurn at h
  cases hm : s.host.moves with
  | nil =>
    rw [hm] at h
    simp only [Host.Outcome.next.injEq] at h
    exact .inr ⟨rfl, h ▸ ⟨rfl, rfl, rfl, rfl, rfl⟩⟩
  | cons m rest =>
    rw [hm] at h
    cases m with
    | present w => exact .inl ⟨w, rfl, h⟩
    | connect addr tr =>
      simp only [hostMove, Host.Outcome.next.injEq] at h
      exact .inr ⟨rfl, h ▸ pop.trans (HostOnly.ofHost _ _)⟩
    | readPort p => exact .inr ⟨rfl, pop.trans (hostMove_onPorts rfl h)⟩
    | driveCodec b v o w => exact .inr ⟨rfl, pop.trans (hostMove_onPorts rfl h)⟩

/-- A step in IDLE: the word on `cmd` is accepted, with only the host's record changed before it; with no word there is
a probe, or only the host's record changes, a slot being taken (R26, R29, R264, R267). -/
theorem idleTurn_cases {s t : State} (hp : s.block.phase = .idle) (h : idleTurn s = .next t) :
    (∃ w u, s.cmd = some w ∧ HostOnly s u ∧ acceptWord w u = .next t) ∨
      s.cmd = none ∧ ((∃ made, s.host.boot = .probing made ∧ t = probeStep made s) ∨ HostOnly s.idleArrive t) := by
  have hc : s.cmd = s.host.word := by simp [State.cmd, State.cmdReady, hp]
  have turn : s.host.word = s.host.moves.head?.bind HostMove.word → hostTurn s = .next t →
      (∃ w u, s.cmd = some w ∧ HostOnly s u ∧ acceptWord w u = .next t) ∨
        s.cmd = none ∧ ((∃ made, s.host.boot = .probing made ∧ t = probeStep made s) ∨ HostOnly s.idleArrive t) := by
    intro hw h
    rcases hostTurn_cases h with ⟨w, hm, ha⟩ | ⟨hm, ha⟩
    · exact .inl ⟨w, s.popMove, by rw [hc, hw, hm], HostOnly.ofHost s _, ha⟩
    · exact .inr ⟨by rw [hc, hw, hm], .inr ha⟩
  unfold idleTurn at h
  cases hb : s.host.boot with
  | off => rw [hb] at h; simpa [hb] using turn (by simp [HostAgent.word, hb]) h
  | ready => rw [hb] at h; simpa [hb] using turn (by simp [HostAgent.word, hb]) h
  | failed c i => rw [hb] at h; simpa [hb] using turn (by simp [HostAgent.word, hb]) h
  | probing made =>
    rw [hb] at h
    exact .inr ⟨by simp [hc, HostAgent.word, hb], .inl ⟨made, rfl, by simpa using h.symm⟩⟩
  | issue =>
    rw [hb] at h
    exact .inl ⟨bringupWord, awaitBringup s, by simp [hc, HostAgent.word, hb], HostOnly.ofHost s _, h⟩
  | await =>
    rw [hb] at h
    simp only [Host.Outcome.next.injEq] at h
    exact .inr ⟨by simp [hc, HostAgent.word, hb], .inr (h ▸ HostOnly.ofHost s.idleArrive _)⟩

/-- A step in BUSY: a block step, or a move of the host on the ports with no reset in its slot (R26, R29). -/
theorem busyTurn_cases {s t : State} (h : busyTurn s = .next t) :
    (s.hostActs = false ∧ t = blockStep s) ∨
      (s.hostActs = true ∧ (s.env.slotAt 0).reset = false ∧ HostOnly s.arrive t) := by
  unfold busyTurn at h
  cases ha : s.hostActs with
  | false => simp only [ha, Bool.false_eq_true, if_false, Host.Outcome.next.injEq] at h; exact .inl ⟨rfl, h.symm⟩
  | true =>
    simp only [ha, if_true] at h
    simp only [State.hostActs, Env.next_eq, Bool.and_eq_true, Bool.not_eq_true'] at ha
    obtain ⟨⟨⟨-, hr⟩, -⟩, hm⟩ := ha
    refine .inr ⟨rfl, hr, ?_⟩
    have he : s.idleArrive = s.arrive := by simp [State.idleArrive, hr]
    cases hl : s.host.moves with
    | nil => simp [hl] at hm
    | cons m rest =>
      simp only [hl, List.head?_cons, Option.any_some] at hm
      unfold hostTurn at h
      rw [hl] at h
      exact he ▸ ((HostOnly.ofHost s _).idleArrive (u := s.popMove)).trans (hostMove_onPorts hm h)

/-- The ways a step answers a next state: in BUSY a block step, or a port move of the host; in IDLE a command begun with
only the host's record changed before it, an ILLEGAL word, a probe, or a host step that changes the host's record only.
A word is accepted exactly where `cmd` shows one. -/
theorem step_cases {s t : State} (h : step s = .next t) :
    (s.block.phase ≠ .idle ∧ ((s.hostActs = false ∧ t = blockStep s) ∨
        (s.hostActs = true ∧ (s.env.slotAt 0).reset = false ∧ HostOnly s.arrive t))) ∨
      s.block.phase = .idle ∧
        ((∃ w i u, s.cmd = some w ∧ decode w = .ok i ∧ HostOnly s u ∧ exec i u = .next t) ∨
          (∃ w u, s.cmd = some w ∧ illegal w = true ∧ HostOnly s u ∧ t = acceptIllegal w u) ∨
          s.cmd = none ∧
            ((∃ made, s.host.boot = .probing made ∧ t = probeStep made s) ∨ HostOnly s.idleArrive t)) := by
  unfold step at h
  cases hp : s.block.phase with
  | busy op k locals => rw [hp] at h; exact .inl ⟨by simp, busyTurn_cases h⟩
  | idle =>
    rw [hp] at h
    refine .inr ⟨rfl, ?_⟩
    rcases idleTurn_cases hp h with ⟨w, u, hc, hu, ha⟩ | hn
    · rcases acceptWord_cases ha with ⟨i, hd, he⟩ | ⟨hi, ht⟩
      · exact .inl ⟨w, i, u, hc, hd, hu, he⟩
      · exact .inr (.inl ⟨w, u, hc, hi, hu, ht⟩)
    · exact .inr (.inr hn)

end Sys2Proof.Machine
end

