-- ==== Sys2Proof/Tests/Slice0.lean ====
section
/-! SUPPORT. The model's own tests: words written out from the encoding tables, single steps with results taken from
95_test_vectors.md, and for every obligation with hypotheses a state and operands that meet them together. -/

namespace Sys2Proof.Tests

set_option Elab.async false

open Sys2Proof Sys2Proof.Machine Sys2Proof.Claims

/-! ### Small states -/

/-- A block step with no sensor step before it and a transport that answers. -/
def okSlot : Slot := { sensor := [], reset := false, reply := .list 1, landed := true, host := false }

/-- A transaction the transport fails; `landed` says whether a write reached the sensor all the same (R55). -/
def failSlot (landed : Bool) : Slot := { okSlot with reply := .error, landed := landed }

/-- A block step before which a block reset is asserted (R260). -/
def resetSlot : Slot := { okSlot with reset := true }

/-- `n` good slots, then one slot, then good ones. -/
def goodThen (n : Nat) (c : Slot) : List Slot := List.replicate n okSlot ++ c :: List.replicate 8 okSlot

/-- A schedule on which every transaction succeeds and no sensor step falls. -/
def good : List Slot := List.replicate 20 okSlot

/-- The admissible platform of the vectors: T = 0x03, BC = 0x2E, CS = CA = 0x26, bits 6 and 5. -/
def blind : Platform := Config.admissible

/-- The same with the other clear mode. -/
def rmw : Platform := { Config.admissible with latchMode := .rmw }

/-- A machine with these registers and this schedule, in IDLE with the whole-command grain. -/
def machine (p : Platform) (sched : List Slot) (regs : List (Byte × Byte)) : State :=
  { State.powerOn p (regs.foldl (fun m c => Memory.write m c.1.toNat c.2) []) with
    env := { sched := sched, drawn := 0, grain := .command } }

/-- The state of a next outcome. -/
def nextOr (d : State) : Host.Outcome State Fault Refusal → State
  | .next t => t
  | .fault _ => d
  | .refused _ => d

/-- What the vectors show of a command: its status, and its bus history oldest first. -/
structure Seen where
  result : Option Byte
  err : BitVec 4
  info : BitVec 32
  warn : BitVec 3
  bc : PadSet
  cal : PadSet
  cpc : BitVec 32
  bus : List BusEvent
deriving DecidableEq, Repr

/-- The step that takes the word `w` from `s`. -/
def take (w : Nat) (s : State) : Host.Outcome State Fault Refusal := step (s.withFetchWord 32 w)

/-- What the step shows. -/
def seen : Host.Outcome State Fault Refusal → Option Seen
  | .next t =>
    some { result := if t.block.resultValid then some t.block.result else none
           err := t.block.err, info := t.block.errInfo, warn := t.block.warn, bc := t.block.bcPads
           cal := t.block.calPads, cpc := t.block.cpc, bus := t.trace.bus.reverse }
  | .fault _ => none
  | .refused _ => none

/-- A register after the step. -/
def regOf (a : Byte) : Host.Outcome State Fault Refusal → Option Byte
  | .next t => some (t.sensor.reg a)
  | .fault _ => none
  | .refused _ => none

/-- A command that completed with this result and bus history, with no warning. -/
def done (r : Option Byte) (bus : List BusEvent) : Option Seen :=
  some { result := r, err := 0, info := 0, warn := 0, bc := 0, cal := 0, cpc := 1, bus := bus }

/-- A command that ended with this error. -/
def failed (err : BitVec 4) (info : BitVec 32) (bus : List BusEvent) : Option Seen :=
  some { result := none, err := err, info := info, warn := 0, bc := 0, cal := 0, cpc := 1, bus := bus }

/-- A read that failed (R54). -/
def readFailed (a : Byte) : BusEvent := .read 0x28 a none

/-- A write that failed (R55). -/
def writeFailed (a v : Byte) : BusEvent := .write 0x28 a v false

/-! ### Words, written out field by field: OPC, A, B, OFF, WID, RSV (R80, R82) -/

theorem test_decode_getb : decode 0b00000001_10100101_00000000_100_0011_0 = .ok (.getb 0xA5 4 3) := by decide
theorem test_decode_setb : decode 0b00000010_10100101_00000011_010_0010_0 = .ok (.setb 0xA5 0x03 2 2) := by decide
theorem test_decode_bringup : decode 0b00010000_00000000_00000000_000_0000_0 = .ok .bringup := by decide
theorem test_decode_chks : decode 0b00010001_00000000_00000000_000_0000_0 = .ok (.chks) := by decide
theorem test_decode_recal : decode 0b00010010_00000000_00000000_000_0000_0 = .ok (.recal) := by decide
theorem test_decode_ssens : decode 0b00100000_00000000_00000110_000_0000_0 = .ok (.ssens 6) := by decide
theorem test_decode_gsens : decode 0b00100001_00000000_00000000_000_0000_0 = .ok (.gsens) := by decide
theorem test_decode_siep : decode 0b00100010_00000000_00000101_000_0000_0 = .ok (.siep 0b101) := by decide
theorem test_decode_siea : decode 0b00100011_00000000_00000001_000_0000_0 = .ok (.siea true) := by decide
theorem test_decode_gie : decode 0b00100100_00000000_00000000_000_0000_0 = .ok (.gie) := by decide
theorem test_decode_clri : decode 0b00110000_00000000_00000000_000_0000_0 = .ok (.clri) := by decide
theorem test_decode_chkt : decode 0b00110001_00000000_00000000_000_0000_0 = .ok (.chkt) := by decide
theorem test_decode_gett : decode 0b00110010_00000000_00000000_000_0000_0 = .ok (.gett) := by decide
theorem test_decode_ist : decode 0b00110011_00000000_00000000_000_0000_0 = .ok (.ist) := by decide
theorem test_decode_ispt : decode 0b00110100_00000000_00000100_000_0000_0 = .ok (.ispt 0b100) := by decide
theorem test_decode_isls : decode 0b00110101_00000000_00000000_000_0000_0 = .ok (.isls) := by decide
theorem test_decode_isrs : decode 0b00110110_00000000_00000000_000_0000_0 = .ok (.isrs) := by decide
theorem test_decode_spbp : decode 0b01000000_00000000_00000010_000_0000_0 = .ok (.spbp 0b010) := by decide
theorem test_decode_gpbp : decode 0b01000001_00000000_00000000_000_0000_0 = .ok (.gpbp) := by decide
theorem test_decode_spbt : decode 0b01000010_00000000_00000010_000_0000_0 = .ok (.spbt 2) := by decide
theorem test_decode_gpbt : decode 0b01000011_00000000_00000000_000_0000_0 = .ok (.gpbt) := by decide
theorem test_decode_spbe : decode 0b01000100_00000000_00000000_000_0000_0 = .ok (.spbe false) := by decide
theorem test_decode_gpbe : decode 0b01000101_00000000_00000000_000_0000_0 = .ok (.gpbe) := by decide
theorem test_decode_ispb : decode 0b01000110_00000000_00000000_000_0000_0 = .ok (.ispb) := by decide

/-- 95_test_vectors.md L2.1: words that decode to ILLEGAL. -/
theorem test_illegal_words :
    List.map illegal [0x00000000, 0xFFFFFFFF, 0x03000000, 0x47000000, 0x01A50087, 0x01A50186, 0x10000001, 0x10010000,
      0x11000020, 0x21000100, 0x20000800, 0x2000070A, 0x23000200, 0x34000000, 0x34000300, 0x42000400,
      0x44000200] = List.replicate 17 true := by decide

/-- R83: the reason, by name. -/
theorem test_illegal_reasons :
    decode 0x03000000 = .error .unassignedOpcode ∧ decode 0x10010000 = .error (.nonzeroField .a) ∧
      decode 0x01A50186 = .error (.nonzeroField .b) ∧ decode 0x11000020 = .error (.nonzeroField .off) ∧
      decode 0x2000070A = .error (.nonzeroField .wid) ∧ decode 0x01A50087 = .error (.nonzeroField .rsv) ∧
      decode 0x34000300 = .error .illegalB := by decide

/-- The one check of well-formedness (R87) refuses an empty, a two-pad and a full selector, and takes the three pads. -/
theorem test_wellFormed_ispt :
    List.map (fun p => Instr.wellFormed (.ispt p)) [0b000, 0b011, 0b111, 0b001, 0b010, 0b100] =
      [false, false, false, true, true, true] := by decide

/-- The numbers of R93 in hex, binary and decimal, and two lines that no operand form of R93 fits. -/
theorem test_assembler_text :
    assembleText "GETB 0xA5, 0b100, 3".toList = some 0x01A50086 ∧ assembleText "SSENS x3".toList = none ∧
      assembleText "SPBT 281ms".toList = none := by decide +kernel

/-! ### One step each, from 95_test_vectors.md L1 and L2 -/

/-- L2.2: GETB 0xA5, 5, 3. -/
theorem test_getb :
    seen (take 0x01A500A6 (machine blind good [])) = done (some 0x05) [] := by decide +kernel

/-- L2.2: GETB 0xA5, 1, 8. -/
theorem test_getb_range :
    seen (take 0x01A50030 (machine blind good [])) = failed 2 0x00000018 [] := by decide +kernel

/-- L2.2: SETB 0x00, 0x1F, 5, 3, the value truncated. -/
theorem test_setb :
    seen (take 0x02001FA6 (machine blind good [])) = done (some 0xE0) [] := by decide +kernel

/-- L2.2: SETB 0x12, 0x34, 6, 3. -/
theorem test_setb_range :
    seen (take 0x021234C6 (machine blind good [])) = failed 2 0x00000063 [] := by decide +kernel

/-- L2.3: BRINGUP in RMW mode. -/
theorem test_bringup_rmw :
    seen (take 0x10000000 (machine rmw good [(0x00, 0x41), (0x1F, 0x2F), (0x27, 0xF8)])) = done none [readOf 0x1F 0x2F, writeOf 0x1F 0x6F, readOf 0x27 0xF8, writeOf 0x27 0xFF, readOf 0x00 0x41, writeOf 0x00 0x40] ∧
      regOf 0x00 (take 0x10000000 (machine rmw good [(0x00, 0x41), (0x1F, 0x2F), (0x27, 0xF8)])) = some 0x40 := by decide +kernel

/-- L2.3: BRINGUP whose transaction 5 fails, the byte stored. -/
theorem test_bringup_fails :
    seen (take 0x10000000 (machine blind (goodThen 5 (failSlot true)) [(0x00, 0x01), (0x1F, 0x2F)])) = failed 3 0x00000100 [readOf 0x1F 0x2F, writeOf 0x1F 0x6F, readOf 0x27 0x00, writeOf 0x27 0x07, writeFailed 0x00 0x00] ∧
      regOf 0x00 (take 0x10000000 (machine blind (goodThen 5 (failSlot true)) [(0x00, 0x01), (0x1F, 0x2F)])) = some 0x00 := by decide +kernel

/-- L2.3: CHKS with both fault bits. -/
theorem test_chks :
    seen (take 0x11000000 (machine blind good [(0x02, 0xFF), (0x2E, 0xF9), (0x26, 0xFA)])) = some ⟨some 0x03, 0, 0, 0b011, 0b001, 0b010, 1,
      [readOf 0x02 0xFF, readOf 0x2E 0xF9, readOf 0x26 0xFA]⟩ := by decide +kernel

/-- L2.3: CHKS whose third read fails keeps the first warning. -/
theorem test_chks_fails :
    seen (take 0x11000000 (machine blind (goodThen 3 (failSlot false)) [(0x02, 0x60), (0x2E, 0x01), (0x26, 0x06)])) = some ⟨none, 3, 0x26, 0b001, 0b001, 0b000, 1,
      [readOf 0x02 0x60, readOf 0x2E 0x01, readFailed 0x26]⟩ := by decide +kernel

/-- L1.10: RECAL. -/
theorem test_recal :
    seen (take 0x12000000 (machine blind good [])) = done none [writeOf 0x26 0x07] := by decide +kernel

/-- L2.3: RECAL whose write fails, the old value kept. -/
theorem test_recal_fails :
    seen (take 0x12000000 (machine blind (goodThen 1 (failSlot false)) [(0x26, 0x01)])) = failed 3 0x00000126 [writeFailed 0x26 0x07] ∧
      regOf 0x26 (take 0x12000000 (machine blind (goodThen 1 (failSlot false)) [(0x26, 0x01)])) = some 0x01 := by decide +kernel

/-- L2.4: SSENS x4. -/
theorem test_ssens :
    seen (take 0x20000500 (machine blind good [(0x1F, 0x2F)])) = done none [readOf 0x1F 0x2F, writeOf 0x1F 0x5F] := by decide +kernel

/-- L2.4: SSENS x1 whose write fails, the byte stored. -/
theorem test_ssens_fails :
    seen (take 0x20000700 (machine blind (goodThen 2 (failSlot true)) [(0x1F, 0x2F)])) = failed 3 0x0000011F [readOf 0x1F 0x2F, writeFailed 0x1F 0x7F] ∧
      regOf 0x1F (take 0x20000700 (machine blind (goodThen 2 (failSlot true)) [(0x1F, 0x2F)])) = some 0x7F := by decide +kernel

/-- L2.4: GSENS on 0x0F. -/
theorem test_gsens :
    seen (take 0x21000000 (machine blind good [(0x1F, 0x0F)])) = done (some 0x00) [readOf 0x1F 0x0F] := by decide +kernel

/-- R54: GSENS whose read fails. -/
theorem test_gsens_fails :
    seen (take 0x21000000 (machine blind (goodThen 1 (failSlot false)) [(0x1F, 0x6F)])) = failed 3 0x0000001F [readFailed 0x1F] := by decide +kernel

/-- L2.4: SIEP of Left replaces the field. -/
theorem test_siep :
    seen (take 0x22000100 (machine blind good [(0x27, 0x06)])) = done none [readOf 0x27 0x06, writeOf 0x27 0x01] := by decide +kernel

/-- L2.4: SIEA true. -/
theorem test_siea :
    seen (take 0x23000100 (machine blind good [(0x27, 0xA8)])) = done none [readOf 0x27 0xA8, writeOf 0x27 0xAF] := by decide +kernel

/-- L2.4: SIEA false. -/
theorem test_siea_off :
    seen (take 0x23000000 (machine blind good [(0x27, 0x07)])) = done none [readOf 0x27 0x07, writeOf 0x27 0x00] := by decide +kernel

/-- L2.4: GIE on 0xFF. -/
theorem test_gie :
    seen (take 0x24000000 (machine blind good [(0x27, 0xFF)])) = done (some 0x07) [readOf 0x27 0xFF] := by decide +kernel

/-- L2.5: CLRI. -/
theorem test_clri :
    seen (take 0x30000000 (machine blind good [(0x00, 0x41)])) = done none [writeOf 0x00 0x00] ∧
      regOf 0x00 (take 0x30000000 (machine blind good [(0x00, 0x41)])) = some 0x00 := by decide +kernel

/-- L2.5: CLRI in RMW mode. -/
theorem test_clri_rmw :
    seen (take 0x30000000 (machine rmw good [(0x00, 0x41)])) = done none [readOf 0x00 0x41, writeOf 0x00 0x40] ∧
      regOf 0x00 (take 0x30000000 (machine rmw good [(0x00, 0x41)])) = some 0x40 := by decide +kernel

/-- L2.5: CHKT does not clear. -/
theorem test_chkt :
    seen (take 0x31000000 (machine blind good [(0x00, 0x01), (0x03, 0xFA)])) = done (some 0x02) [readOf 0x03 0xFA] ∧
      regOf 0x00 (take 0x31000000 (machine blind good [(0x00, 0x01), (0x03, 0xFA)])) = some 0x01 := by decide +kernel

/-- L2.5: GETT in RMW mode. -/
theorem test_gett :
    seen (take 0x32000000 (machine rmw good [(0x00, 0x81), (0x03, 0x02)])) = done (some 0x02) [readOf 0x03 0x02, readOf 0x00 0x81, writeOf 0x00 0x80] ∧
      regOf 0x00 (take 0x32000000 (machine rmw good [(0x00, 0x81), (0x03, 0x02)])) = some 0x80 := by decide +kernel

/-- L2.5: GETT with no pad touched. -/
theorem test_gett_none :
    seen (take 0x32000000 (machine blind good [(0x00, 0x01), (0x03, 0xF8)])) = done (some 0x00) [readOf 0x03 0xF8] ∧
      regOf 0x00 (take 0x32000000 (machine blind good [(0x00, 0x01), (0x03, 0xF8)])) = some 0x01 := by decide +kernel

/-- L2.5: IST. -/
theorem test_ist :
    seen (take 0x33000000 (machine blind good [(0x00, 0x01), (0x02, 0x11)])) = done (some 0x01) [readOf 0x02 0x11, writeOf 0x00 0x00] ∧
      regOf 0x00 (take 0x33000000 (machine blind good [(0x00, 0x01), (0x02, 0x11)])) = some 0x00 := by decide +kernel

/-- L2.5: IST with bit 0 clear. -/
theorem test_ist_none :
    seen (take 0x33000000 (machine blind good [(0x00, 0x01), (0x02, 0xFE)])) = done (some 0x00) [readOf 0x02 0xFE] ∧
      regOf 0x00 (take 0x33000000 (machine blind good [(0x00, 0x01), (0x02, 0xFE)])) = some 0x01 := by decide +kernel

/-- L2.5: ISPT R. -/
theorem test_ispt :
    seen (take 0x34000400 (machine blind good [(0x00, 0x01), (0x03, 0x06)])) = done (some 0x01) [readOf 0x03 0x06, writeOf 0x00 0x00] ∧
      regOf 0x00 (take 0x34000400 (machine blind good [(0x00, 0x01), (0x03, 0x06)])) = some 0x00 := by decide +kernel

/-- L2.5: ISPT M. -/
theorem test_ispt_none :
    seen (take 0x34000200 (machine blind good [(0x00, 0x01), (0x03, 0x05)])) = done (some 0x00) [readOf 0x03 0x05] ∧
      regOf 0x00 (take 0x34000200 (machine blind good [(0x00, 0x01), (0x03, 0x05)])) = some 0x01 := by decide +kernel

/-- L2.5: ISLS. -/
theorem test_isls :
    seen (take 0x35000000 (machine blind good [(0x00, 0x01)])) = some ⟨some 0x00, 0, 0, 0b100, 0, 0, 1, []⟩ := by decide +kernel

/-- L2.5: ISRS. -/
theorem test_isrs :
    seen (take 0x36000000 (machine blind good [(0x00, 0x01)])) = some ⟨some 0x00, 0, 0, 0b100, 0, 0, 1, []⟩ := by decide +kernel

/-- L2.6: SPBP of Middle. -/
theorem test_spbp :
    seen (take 0x40000200 (machine blind good [(0x60, 0xA8)])) = done none [readOf 0x60 0xA8, writeOf 0x60 0xAA] := by decide +kernel

/-- L2.6: GPBP. -/
theorem test_gpbp :
    seen (take 0x41000000 (machine blind good [(0x60, 0xAA)])) = done (some 0x02) [readOf 0x60 0xAA] := by decide +kernel

/-- L2.6: SPBT 280ms keeps PB_EN. -/
theorem test_spbt :
    seen (take 0x42000000 (machine blind good [(0x61, 0x07)])) = done none [readOf 0x61 0x07, writeOf 0x61 0x04] := by decide +kernel

/-- L2.6: GPBT. -/
theorem test_gpbt :
    seen (take 0x43000000 (machine blind good [(0x61, 0xFB)])) = done (some 0x03) [readOf 0x61 0xFB] := by decide +kernel

/-- L2.6: SPBE false keeps PB_TIME. -/
theorem test_spbe :
    seen (take 0x44000000 (machine blind good [(0x61, 0xFF)])) = done none [readOf 0x61 0xFF, writeOf 0x61 0xFB] := by decide +kernel

/-- L2.6: GPBE. -/
theorem test_gpbe :
    seen (take 0x45000000 (machine blind good [(0x61, 0xA6)])) = done (some 0x01) [readOf 0x61 0xA6] := by decide +kernel

/-- L2.6: ISPB in RMW mode. -/
theorem test_ispb :
    seen (take 0x46000000 (machine rmw good [(0x00, 0x01), (0x02, 0x10)])) = done (some 0x01) [readOf 0x02 0x10, readOf 0x00 0x01, writeOf 0x00 0x00] := by decide +kernel

/-- L2.6: ISPB with bit 4 clear. -/
theorem test_ispb_none :
    seen (take 0x46000000 (machine blind good [(0x00, 0x01), (0x02, 0xEF)])) = done (some 0x00) [readOf 0x02 0xEF] ∧
      regOf 0x00 (take 0x46000000 (machine blind good [(0x00, 0x01), (0x02, 0xEF)])) = some 0x01 := by decide +kernel

/-- L2.7: a reserved bit set goes before the range check. -/
theorem test_priority :
    seen (take 0x01A500E5 (machine blind good [])) = failed 1 0x01A500E5 [] := by decide +kernel

/-- L2.1: the all-zero word is an error whose info is 0. -/
theorem test_zero_word :
    seen (take 0x00000000 (machine blind good [])) = failed 1 0x00000000 [] := by decide +kernel

/-- L2.7: a block reset between the read and the write of SSENS: no write, the register unchanged. -/
theorem test_reset_inside_ssens :
    seen (take 0x20000700 (machine blind (goodThen 2 resetSlot) [(0x1F, 0x2F)])) =
        some ⟨none, 0, 0, 0, 0, 0, 0, [readOf 0x1F 0x2F]⟩ ∧
      regOf 0x1F (take 0x20000700 (machine blind (goodThen 2 resetSlot) [(0x1F, 0x2F)])) = some 0x2F := by
  decide +kernel

/-- L1.6 and L2.7: a connect with address 0x29, and one without a transport. -/
theorem test_connect_checks :
    Boot.start 0x29 true = .failed 4 0x29 ∧ Boot.start 0x28 false = .failed 5 0 ∧ Boot.start 0x28 true = .probing 0 := by
  decide

/-- The draws of one sensor step on touch status. -/
def touchDraw (v : Byte) (s : Bool) : SensorDraw := ⟨none, some v, none, none, none, s, false⟩

/-- A sensor with this interrupt enable, touch status and main control. -/
def sensorWith (ie t main : Byte) : Sensor := (machine blind [] [(0x27, ie), (0x03, t), (0x00, main)]).sensor

/-- L2.5, sensor-agent vectors: must set, may stay, may set, stays set, must set. -/
theorem test_sensor_latch :
    (sensorStep blind (touchDraw 0b100 false) (sensorWith 0b111 0b000 0)).latch = true ∧
      (sensorStep blind (touchDraw 0b100 false) (sensorWith 0b011 0b000 0)).latch = false ∧
      (sensorStep blind (touchDraw 0b100 true) (sensorWith 0b011 0b000 0)).latch = true ∧
      (sensorStep blind (touchDraw 0b000 false) (sensorWith 0b111 0b100 1)).latch = true ∧
      (sensorStep blind (touchDraw 0b011 false) (sensorWith 0b010 0b001 0)).latch = true := by decide +kernel

/-! ### For every obligation with hypotheses, a state and operands that meet them together

Each theorem names the obligation it is for; a statement of several clauses has one conjunct for each. -/

/-- The machine of the witnesses: some register values and a good schedule. -/
def calm (p : Platform) : State := machine p good [(0x00, 0x41), (0x02, 0x71), (0x03, 0x05), (0x1F, 0x2F), (0x26, 0x06),
  (0x27, 0xF8), (0x2E, 0x01), (0x60, 0xA8), (0x61, 0xA2)]

/-- The same with a failure at transaction `n`. -/
def broken (p : Platform) (n : Nat) : State :=
  { calm p with env := { (calm p).env with sched := goodThen n (failSlot true) } }

/-- The same with this general status. -/
def withStatus (g : Byte) (s : State) : State := { s with sensor := s.sensor.setReg 0x02 g }

/-- The same with these host moves. -/
def withMoves (moves : List HostMove) (s : State) : State := { s with host := { s.host with moves := moves } }

/-- The same with the boot protocol here. -/
def withBoot (b : Boot) (s : State) : State := { s with host := { s.host with boot := b } }

/-- The same in the middle of SSENS, after its read. -/
def busyState (s : State) : State := { s with block := { s.block with phase := .busy (.ssens 7) 1 [0x2F] } }

/-- For FieldReadsBackWhatWasInserted, InsertLeavesOtherBits, CodecAlgebra (fields, disjoint fields, width 0) and
OneBitFieldsAreBoolean, at the ends of the ranges. -/
theorem witness_fields :
    0 + 8 ≤ 8 ∧ 8 + 0 ≤ 8 ∧ 5 + 3 ≤ 8 ∧ (0 + 4 ≤ 8 ∧ 4 + 4 ≤ 8 ∧ (0 + 4 ≤ 4 ∨ 4 + 4 ≤ 0)) ∧ 7 ≤ 7 := by decide

/-- For DecodeInvertsEncode and AssemblerReachesEveryCommand (second clause). -/
theorem witness_wellFormed :
    Instr.wellFormed (.ispt 0b100) = true ∧ Instr.wellFormed (.getb 0xFF 7 15) = true := by decide

/-- For DecodedWordIsTheEncoding. -/
theorem witness_decodes : decode 0x34000400 = .ok (.ispt 0b100) := by decide

/-- For AssignedOpcodeIllegalExactlyByTable, with a word that breaks its row and one that does not. -/
theorem witness_tableRow :
    tableRow ((0x34000300 : CmdWord).extractLsb' 24 8) = some ⟨true, false, true, [0x01, 0x02, 0x04]⟩ ∧
      breaksRow 0x34000300 ⟨true, false, true, [0x01, 0x02, 0x04]⟩ ∧
      ¬ breaksRow 0x34000400 ⟨true, false, true, [0x01, 0x02, 0x04]⟩ := by
  unfold breaksRow; decide

/-- For UnassignedOpcodesIllegal. -/
theorem witness_unassigned : tableRow ((0x47000000 : CmdWord).extractLsb' 24 8) = none ∧ 0x47 < 256 := by decide

/-- For the words of every PlainWord. -/
theorem witness_plainWord :
    (0x10000001 : CmdWord).extractLsb' 24 8 = (0x10000000 : CmdWord).extractLsb' 24 8 ∧
      (0x10000001 : CmdWord) ≠ 0x10000000 := by decide

/-- For the words of every TypedWord: one whose argument is not legal. -/
theorem witness_typedWord :
    (0x42000400 : CmdWord).extractLsb' 24 8 = 0x42 ∧
      ∀ time : BitVec 2, (0x42000400 : CmdWord) ≠ (0x42#8 ++ 0x00#8 ++ time.setWidth 8 ++ 0x00#8 : CmdWord) := by decide

/-- For AssemblerReachesEveryCommand: a line that assembles, a member of the table, and the operands' bounds. -/
theorem witness_assembles :
    assemble (.ssensBy 128) = some 0x20000000 ∧ (PlainOp.ispb, (0x46000000 : CmdWord)) ∈ plainWords ∧
      (0xFF ≤ 0xFF ∧ 7 ≤ 7 ∧ 15 ≤ 15) ∧ (0xFF < 256 ∨ 7 < 0 ∨ 15 < 0) ∧ (7 < 8 ∧ 15 < 16) ∧ 3 ∉ [128, 64, 32, 16, 8, 4, 2, 1] ∧
      281 ∉ [280, 560, 1120, 2240] := by decide

/-- For StepRunsThePresentedCommand (both clauses). -/
theorem witness_presented :
    ((withMoves [.present 0x21000000] (calm blind)).block.phase = .idle ∧
      Settled (withMoves [.present 0x21000000] (calm blind)).host.boot ∧
      (withMoves [.present 0x21000000] (calm blind)).host.moves = .present 0x21000000 :: [] ∧
      decode 0x21000000 = .ok .gsens) ∧
    (busyState (calm blind)).block.phase ≠ .idle ∧ (busyState (calm blind)).hostActs = false :=
  ⟨⟨by decide, .inl rfl, rfl, by decide⟩, by decide, by decide⟩

/-- For CmdPortShowsTheWordTaken: a command's word and an ILLEGAL one on `cmd`; a wait; the boot protocol's three states;
a move that presents and one that does not; BUSY. -/
theorem witness_cmdPort :
    ((withMoves [.present 0x21000000] (calm blind)).cmd = some 0x21000000 ∧ decode 0x21000000 = .ok .gsens) ∧
      ((withMoves [.present 0x01A50087] (calm blind)).cmd = some 0x01A50087 ∧ illegal 0x01A50087 = true) ∧
      ((calm blind).block.phase = .idle ∧ (calm blind).cmd = none ∧ goesOn (step (calm blind)) = true) ∧
      ((withBoot .issue (calm blind)).block.phase = .idle ∧ (withBoot .issue (calm blind)).host.boot = .issue) ∧
      ((withBoot .await (calm blind)).host.boot = .await ∧ (withBoot (.probing 0) (calm blind)).host.boot = .probing 0) ∧
      (Settled (withMoves [.present 0] (calm blind)).host.boot ∧ Settled (withMoves [.readPort .cpc] (calm blind)).host.boot) ∧
      (busyState (calm blind)).block.phase ≠ .idle :=
  ⟨by decide, by decide, by decide, by decide, by decide, ⟨.inl rfl, .inl rfl⟩, by decide⟩

/-- For IllegalWordRaisesIllegalCommand. -/
theorem witness_illegalPresented :
    (withMoves [.present 0x01A50087] (calm blind)).block.phase = .idle ∧
      ((withMoves [.present 0x01A50087] (calm blind)).env.slotAt 0).reset = false ∧
      Settled (withMoves [.present 0x01A50087] (calm blind)).host.boot ∧ illegal 0x01A50087 = true :=
  ⟨by decide, by decide, .inl rfl, by decide⟩

/-- For CodecCommandsOnTheirOperands: a field out of range at 9 = 1 + 8, one in range at 8, and a word of each opcode. -/
theorem witness_ranges :
    accepting (calm blind) = true ∧ (1 : BitVec 3).toNat + (8 : BitVec 4).toNat > 8 ∧
      runsWell (calm blind) [] = true ∧ (7 : BitVec 3).toNat + (1 : BitVec 4).toNat ≤ 8 ∧
      (0x01A50186 : CmdWord).extractLsb' 24 8 = 0x01 ∧ (0x02A50345 : CmdWord).extractLsb' 24 8 = 0x02 := by decide +kernel

/-- For CommandWhileBusyIsRefused. -/
theorem witness_busy : (busyState (calm rmw)).block.phase ≠ .idle := by decide

/-- A machine at the grain of one block step. -/
def fine : State := { calm blind with env := { (calm blind).env with grain := .transaction } }

/-- For AcceptStepClearsStatus. -/
theorem witness_acceptStep :
    fine.block.phase = .idle ∧ fine.env.grain = .transaction ∧ (fine.env.slotAt 0).reset = false ∧
      acceptCheck (.getb 0xA5 0 8) = none := by decide +kernel

/-- For BringupConfiguresAndClears: the run in both modes, and a failure at each of its transactions. -/
theorem witness_bringup :
    runsWell (calm blind) ([.rd, .wr, .rd, .wr] ++ clearKinds (calm blind).plat.latchMode) = true ∧
      runsWell (calm rmw) ([.rd, .wr, .rd, .wr] ++ clearKinds (calm rmw).plat.latchMode) = true ∧
      (calm blind).plat.ok = true ∧ (calm rmw).plat.ok = true ∧
      failsAt (broken blind 1) [] .rd = true ∧ failsAt (broken blind 2) [.rd] .wr = true ∧
      failsAt (broken blind 3) [.rd, .wr] .rd = true ∧ failsAt (broken blind 4) [.rd, .wr, .rd] .wr = true := by
  decide +kernel

/-- For BringupConfiguresAndClears: the failures of its latch clear, in both modes. -/
theorem witness_bringupClear :
    failsAt (broken blind 5) ([.rd, .wr, .rd, .wr] ++ (clearKinds blind.latchMode).dropLast) .wr = true ∧
      (broken rmw 5).plat.latchMode = .rmw ∧ failsAt (broken rmw 5) [.rd, .wr, .rd, .wr] .rd = true ∧
      failsAt (broken rmw 6) ([.rd, .wr, .rd, .wr] ++ (clearKinds rmw.latchMode).dropLast) .wr = true := by
  decide +kernel

/-- The two fault bits as CHKS sees them. -/
def faultBits (s : State) : Bool × Bool :=
  ((seenAt s 1 0x02).getLsbD s.plat.gsBcOutBit.val, (seenAt s 1 0x02).getLsbD s.plat.gsCalFailBit.val)

/-- For ChksReportsFaultyPads: its four runs. -/
theorem witness_chks :
    (faultBits (withStatus 0x11 (calm blind)) = (false, false) ∧ runsWell (withStatus 0x11 (calm blind)) [.rd] = true) ∧
      (faultBits (withStatus 0x40 (calm blind)) = (true, false) ∧
        runsWell (withStatus 0x40 (calm blind)) [.rd, .rd] = true) ∧
      (faultBits (withStatus 0x20 (calm blind)) = (false, true) ∧
        runsWell (withStatus 0x20 (calm blind)) [.rd, .rd] = true) ∧
      (faultBits (withStatus 0x60 (calm blind)) = (true, true) ∧
        runsWell (withStatus 0x60 (calm blind)) [.rd, .rd, .rd] = true) := by decide +kernel

/-- For ChksReportsFaultyPads: its four failures. -/
theorem witness_chksFails :
    failsAt (broken blind 1) [] .rd = true ∧
      (faultBits (withStatus 0x40 (broken blind 2)) = (true, false) ∧
        failsAt (withStatus 0x40 (broken blind 2)) [.rd] .rd = true) ∧
      (faultBits (withStatus 0x20 (broken blind 2)) = (false, true) ∧
        failsAt (withStatus 0x20 (broken blind 2)) [.rd] .rd = true) ∧
      (faultBits (withStatus 0x60 (broken blind 3)) = (true, true) ∧
        failsAt (withStatus 0x60 (broken blind 3)) [.rd, .rd] .rd = true) := by decide +kernel

/-- For RecalWritesTheFixedCommand. -/
theorem witness_recal :
    runsWell (calm blind) [.wr] = true ∧ failsAt (broken blind 1) [] .wr = true := by decide +kernel

/-- For GettersReturnTheirField and ChktReadsWithoutClearing (every ReadsField). -/
theorem witness_readsField :
    runsWell (calm blind) [.rd] = true ∧ failsAt (broken blind 1) [] .rd = true := by decide +kernel

/-- For SsensReplacesTheLevel, InterruptEnableSettersReplaceTheField and PowerButtonSettersReplaceTheirField (every
WritesField). -/
theorem witness_writesField :
    (runsWell (calm blind) [.rd, .wr] = true ∧ (calm blind).plat.ok = true) ∧ failsAt (broken blind 1) [] .rd = true ∧
      failsAt (broken blind 2) [.rd] .wr = true := by decide +kernel

/-- For ClriClearsTheLatch, in both modes. -/
theorem witness_clri :
    runsWell (calm blind) (clearKinds (calm blind).plat.latchMode) = true ∧
      runsWell (calm rmw) (clearKinds (calm rmw).plat.latchMode) = true ∧
      failsAt (broken blind 1) (clearKinds blind.latchMode).dropLast .wr = true ∧
      ((broken rmw 1).plat.latchMode = .rmw ∧ failsAt (broken rmw 1) [] .rd = true) ∧
      failsAt (broken rmw 2) (clearKinds rmw.latchMode).dropLast .wr = true := by decide +kernel

/-- The state after CLRI. -/
def cleared (s : State) : State := nextOr s (exec .clri s)

/-- For ClriClearsTheLatch, its last clause where no sensor step falls, in both modes. -/
theorem witness_clriTwice :
    (List.map (fun p =>
        runsWell (calm p) (clearKinds p.latchMode) && quiet (calm p) longest &&
          runsWell (cleared (calm p)) (clearKinds p.latchMode) && quiet (cleared (calm p)) longest &&
          goesOn (exec .clri (calm p)) && goesOn (exec .clri (cleared (calm p))) && p.ok) [blind, rmw]) = [true, true] := by
  decide +kernel

/-- The calm state with two sensor steps before every block step: the touches end, and the right pad, which does not
enable the latch, rises. -/
def stirred (p : Platform) : State :=
  { calm p with env := { (calm p).env with
      sched := List.replicate 20 { okSlot with sensor := [touchDraw 0b000 false, touchDraw 0b100 false] } } }

/-- For ClriClearsTheLatch, its last clause where sensor steps fall, in both modes. -/
theorem witness_clriStirred :
    (List.map (fun p =>
        runsWell (stirred p) (clearKinds p.latchMode) && runsWell (cleared (stirred p)) (clearKinds p.latchMode) &&
          goesOn (exec .clri (stirred p)) && goesOn (exec .clri (cleared (stirred p))) && p.ok &&
          !quiet (stirred p) longest) [blind, rmw]) = [true, true] ∧
      (staysClear ((stirred blind).arriveN 2) ∧ staysClear ((cleared (stirred blind)).arriveN 2)) ∧
      staysClear ((stirred rmw).arriveN 2) ∧ staysClear ((cleared (stirred rmw)).arriveN 2) := by
  unfold staysClear; decide +kernel

/-- For GettClearsIffAnyPadTouched: negative, positive in both modes, and the failures. -/
theorem witness_gett :
    ((getBits (seenAt (machine blind good []) 1 0x03) 0 3 != 0) = false ∧ runsWell (machine blind good []) [.rd] = true) ∧
      ((getBits (seenAt (calm blind) 1 0x03) 0 3 != 0) = true ∧
        runsWell (calm blind) (.rd :: clearKinds (calm blind).plat.latchMode) = true) ∧
      ((getBits (seenAt (calm rmw) 1 0x03) 0 3 != 0) = true ∧
        runsWell (calm rmw) (.rd :: clearKinds (calm rmw).plat.latchMode) = true) ∧
      failsAt (broken blind 1) [] .rd = true := by decide +kernel

/-- For GettClearsIffAnyPadTouched, GeneralStatusQueriesClearIffSet and IsptClearsIffThePadIsTouched: a positive answer
whose latch clear fails, in both modes (the general status of these states is 0x71, the touch status 0x05). -/
theorem witness_answerClearFails :
    ((getBits (seenAt (broken blind 2) 1 0x03) 0 3 != 0) = true ∧ (seenAt (broken blind 2) 1 0x02).getLsbD 0 = true ∧
        (seenAt (broken blind 2) 1 0x02).getLsbD 4 = true ∧
        PadSet.has (padsOf (seenAt (broken blind 2) 1 0x03)) .right = true ∧
        failsAt (broken blind 2) ([.rd] ++ (clearKinds blind.latchMode).dropLast) .wr = true) ∧
      ((broken rmw 2).plat.latchMode = .rmw ∧ failsAt (broken rmw 2) [.rd] .rd = true ∧
        (getBits (seenAt (broken rmw 2) 1 0x03) 0 3 != 0) = true) ∧
      failsAt (broken rmw 3) ([.rd] ++ (clearKinds rmw.latchMode).dropLast) .wr = true := by decide +kernel

/-- For GeneralStatusQueriesClearIffSet: IST and ISPB, negative and positive. -/
theorem witness_generalStatus :
    ((seenAt (withStatus 0xEE (calm blind)) 1 0x02).getLsbD 0 = false ∧
        (seenAt (withStatus 0xEE (calm blind)) 1 0x02).getLsbD 4 = false ∧
        runsWell (withStatus 0xEE (calm blind)) [.rd] = true) ∧
      ((seenAt (calm blind) 1 0x02).getLsbD 0 = true ∧ (seenAt (calm blind) 1 0x02).getLsbD 4 = true ∧
        runsWell (calm blind) (.rd :: clearKinds (calm blind).plat.latchMode) = true) ∧
      ((seenAt (calm rmw) 1 0x02).getLsbD 0 = true ∧ (seenAt (calm rmw) 1 0x02).getLsbD 4 = true ∧
        runsWell (calm rmw) (.rd :: clearKinds (calm rmw).plat.latchMode) = true) := by decide +kernel

/-- For IsptClearsIffThePadIsTouched: each pad untouched and touched. -/
theorem witness_ispt :
    (List.map (fun x => PadSet.has (padsOf (seenAt (machine blind good []) 1 0x03)) x) [.left, .middle, .right] =
        [false, false, false] ∧ runsWell (machine blind good []) [.rd] = true) ∧
      (List.map (fun x => PadSet.has (padsOf (seenAt (machine blind good [(0x03, 0x07)]) 1 0x03)) x)
        [.left, .middle, .right] = [true, true, true] ∧
        runsWell (machine blind good [(0x03, 0x07)]) (.rd :: clearKinds blind.latchMode) = true) ∧
      (List.map (fun x => PadSet.has (padsOf (seenAt (machine rmw good [(0x03, 0x07)]) 1 0x03)) x)
        [.left, .middle, .right] = [true, true, true] ∧
        runsWell (machine rmw good [(0x03, 0x07)]) (.rd :: clearKinds rmw.latchMode) = true) := by decide +kernel

/-- For SwipePlaceholdersWarnAndAnswerFalse. -/
theorem witness_swipe : runsWell (calm blind) [] = true := by decide +kernel

/-- The state after CLRI from the calm state, as exec's own next state. -/
theorem witness_exec : exec .clri (calm blind) = .next (cleared (calm blind)) := rfl

/-- For CommandsLeaveEverythingElse and ConfigurationOnlyByItsSetter, with witness_exec. -/
theorem witness_frame :
    noReset (calm blind) longest = true ∧ quiet (calm blind) longest = true ∧ (calm blind).plat.ok = true ∧
      Instr.clri ≠ .recal ∧ 0x1F ∉ storedRegs (calm blind).plat .clri ∧
      sensorLeaves (calm blind).plat 0x1F = true := by decide +kernel

/-- For CpcCountsCommits, DoneIsHeldFromCommitToAccept and TransportErrorIsPrecise (a run with a failing transaction, and one without). -/
theorem witness_counted :
    noReset (calm blind) longest = true ∧ (calm blind).env.grain = .command ∧ goesOn (step (calm blind)) = true ∧
      goesOn (exec .clri (calm blind)) = true ∧ noReset (broken blind 1) longest = true ∧
      goesOn (exec .clri (broken blind 1)) = true ∧ (broken blind 1).env.grain = .command := by decide +kernel

/-- For DoneIsHeldFromCommitToAccept: a wait and a probe, a block step, a step with a reset in its slot. -/
theorem witness_done :
    ((calm blind).block.phase = .idle ∧ (calm blind).cmd = none ∧ ((calm blind).env.slotAt 0).reset = false ∧
        goesOn (step (calm blind)) = true) ∧
      ((withBoot (.probing 2) (calm blind)).cmd = none ∧ goesOn (step (withBoot (.probing 2) (calm blind))) = true) ∧
      ((busyState (calm blind)).block.phase ≠ .idle ∧ ((busyState (calm blind)).env.slotAt 0).reset = false ∧
        goesOn (step (busyState (calm blind))) = true) ∧
      ((machine blind (goodThen 0 resetSlot) []).cmd = none ∧
        ((machine blind (goodThen 0 resetSlot) []).env.slotAt 0).reset = true ∧
        goesOn (step (machine blind (goodThen 0 resetSlot) [])) = true) := by decide +kernel

/-- For WholeCommandIsItsBlockSteps. -/
theorem witness_whole : (calm rmw).block.phase = .idle ∧ (calm rmw).env.grain = .command := by decide

/-- For NoCachingBetweenCommands: two states that differ in the status registers, with witness_exec. -/
theorem witness_sameButStatus :
    SameButStatus (calm blind) { calm blind with block := { (calm blind).block with warn := 0b011, result := 0x55 } } ∧
      (calm blind).block.warn ≠ 0b011 :=
  ⟨⟨rfl, rfl, rfl, rfl, rfl, rfl, rfl⟩, by decide⟩

/-- For ResultsAreInTheirRange. -/
theorem witness_result :
    exec .gsens (calm blind) = .next (nextOr (calm blind) (exec .gsens (calm blind))) ∧
      (nextOr (calm blind) (exec .gsens (calm blind))).block.resultValid = true := ⟨rfl, by decide +kernel⟩

/-- For OnlyLatchCommandsTouchMainControl: SSENS, with two transactions in its history. -/
theorem witness_notLatch :
    (calm rmw).plat.ok = true ∧ ¬ clearsTheLatch (.ssens 7) ∧
      exec (.ssens 7) (calm rmw) = .next (nextOr (calm rmw) (exec (.ssens 7) (calm rmw))) ∧
      (nextOr (calm rmw) (exec (.ssens 7) (calm rmw))).trace.bus =
        [writeOf 0x1F 0x7F, readOf 0x1F 0x2F] ++ (calm rmw).trace.bus :=
  ⟨by decide, fun h => h, rfl, by decide +kernel⟩

/-- The invariant at the calm states and in the middle of a command. -/
theorem witness_inv :
    Inv (calm blind) ∧ Inv (calm rmw) ∧ Inv (busyState (calm blind)) :=
  ⟨⟨by constructor <;> decide, by decide, by decide⟩, ⟨by constructor <;> decide, by decide, by decide⟩,
    ⟨by constructor <;> decide, by decide, by decide⟩⟩

/-- For StepKeepsInv, with witness_inv: a step of each kind of state. -/
theorem witness_steps :
    goesOn (step (withMoves [.present 0x10000000] (calm rmw))) = true ∧ goesOn (step (busyState (calm blind))) = true := by
  decide +kernel

/-- For BusHistoryStaysLegal: a history with a read and a write in it, and a step. -/
theorem witness_legalHistory :
    (∀ e ∈ (nextOr (calm rmw) (exec .clri (calm rmw))).trace.bus,
        legalEvent (nextOr (calm rmw) (exec .clri (calm rmw))).plat e = true) ∧
      (nextOr (calm rmw) (exec .clri (calm rmw))).trace.bus ≠ [] ∧
      goesOn (step (nextOr (calm rmw) (exec .clri (calm rmw)))) = true := by decide +kernel

/-- For LatchClearedOnlyByAWrite: a step that clears the latch. -/
theorem witness_latchCleared :
    (calm blind).plat.ok = true ∧ (calm blind).sensor.latch = true ∧
      step (withMoves [.present 0x30000000] (calm blind)) =
        .next (nextOr (calm blind) (step (withMoves [.present 0x30000000] (calm blind)))) ∧
      (nextOr (calm blind) (step (withMoves [.present 0x30000000] (calm blind)))).sensor.latch = false :=
  ⟨by decide, by decide +kernel, rfl, by decide +kernel⟩

/-- For SensorStepSetsTheLatch, SensorLeavesConfiguration and SensorMayDrawAnyStatus: admissible platforms, the two
calibration registers one or two. -/
theorem witness_sensor :
    blind.ok = true ∧ blind.regCalStatus = blind.regCalActivate ∧
      ({ blind with regCalActivate := 0x2F } : Platform).ok = true := by decide +kernel

/-- For BlockResetAbandonsTheCommand: a reset before a block step, and a waiting host with and without a reset. -/
theorem witness_blockReset :
    ((busyState (machine blind (goodThen 0 resetSlot) [])).block.phase ≠ .idle ∧
        ((busyState (machine blind (goodThen 0 resetSlot) [])).env.slotAt 0).reset = true) ∧
      ((machine blind (goodThen 0 resetSlot) []).block.phase = .idle ∧
        Settled (machine blind (goodThen 0 resetSlot) []).host.boot ∧
        (machine blind (goodThen 0 resetSlot) []).host.moves = []) ∧
      ((calm blind).block.phase = .idle ∧ Settled (calm blind).host.boot ∧ (calm blind).host.moves = []) :=
  ⟨⟨by decide, by decide⟩, ⟨by decide, .inl rfl, rfl⟩, ⟨by decide, .inl rfl, rfl⟩⟩

/-- A machine with a reset in its first slot, which has done something before. -/
def aboutToReset : State :=
  let s := machine blind (goodThen 0 resetSlot) []
  { s with block := { s.block with cpc := 7, err := 3, errInfo := 0x102 } }

/-- For BlockResetAbandonsTheCommand: a reset in IDLE before a command, an ILLEGAL word, a probe, a port read and the end
of a connect. -/
theorem witness_resetIdle :
    (aboutToReset.block.phase = .idle ∧ aboutToReset.env.sched = resetSlot :: List.replicate 8 okSlot ∧
        resetSlot.reset = true ∧ aboutToReset.host.boot ≠ .await ∧ (withBoot .await aboutToReset).host.boot = .await) ∧
      (aboutToReset.env.grain = .command ∧ (aboutToReset.env.slotAt 0).reset = true ∧
        (∀ j < longest, 0 < j → (aboutToReset.env.slotAt j).reset = false) ∧ goesOn (exec .gsens aboutToReset) = true) ∧
      ((withMoves [.present 0] aboutToReset).cmd = some 0 ∧ illegal 0 = true) ∧
      ((withBoot (.probing 1) aboutToReset).cmd = none ∧ goesOn (step (withBoot (.probing 1) aboutToReset)) = true) ∧
      ((withMoves [.readPort .cpc] aboutToReset).cmd = none ∧
        goesOn (step (withMoves [.readPort .cpc] aboutToReset)) = true) := by
  decide +kernel

/-- R260, R45: the host that reads `cpc` and `err` just after the reset sees 0 and NONE, and RESULT faults. -/
theorem test_read_after_reset :
    (nextOr aboutToReset (step (withMoves [.readPort .cpc] aboutToReset))).host.got = [.cpc 0] ∧
      (nextOr aboutToReset (step (withMoves [.readPort .err] aboutToReset))).host.got = [.err 0] ∧
      step (withMoves [.readPort .result] aboutToReset) = .fault .resultNotValid :=
  ⟨by decide +kernel, by decide +kernel, rfl⟩

/-- For BlockResetValues: a reset block whose result the host reads. -/
theorem witness_resetRead :
    (withMoves [.readPort .result] (calm blind)).block = Block.reset ∧
      Settled (withMoves [.readPort .result] (calm blind)).host.boot ∧
      (withMoves [.readPort .result] (calm blind)).host.moves = [.readPort .result] := ⟨rfl, .inl rfl, rfl⟩

/-- The codec ports driven with this offset and width. -/
def driven (off : BitVec 3) (wid : BitVec 4) : State :=
  withMoves [.readPort .cbGet] (driveCodec 0xA5 0x03 off wid (calm blind))

/-- A machine with a valid result. -/
def answered : State :=
  let s := withMoves [.readPort .result] (calm blind)
  { s with block := { s.block with result := 0x06, resultValid := true } }

/-- A BUSY machine whose next slot is the host's. -/
def busyHost (moves : List HostMove) : State :=
  withMoves moves (busyState (machine blind (goodThen 0 { okSlot with host := true }) []))

/-- For HostReadsEveryPort: in IDLE a value and no value on `result`, the codec's at 9 and at 8, a drive; and a read
while BUSY. -/
theorem witness_ports :
    (PortTurn answered ∧ portShows (found answered) .result = .ok (.result 0x06) ∧
        portShows (found (withMoves [.readPort .result] (calm blind))) .result = .error .resultNotValid) ∧
      (PortTurn (driven 7 2) ∧ portShows (found (driven 7 2)) .cbGet = .error .codecNoValue ∧
        portShows (found (driven 7 1)) .cbGet = .ok (.cbGet 0x01)) ∧
      (PortTurn (withMoves [.driveCodec 1 2 3 4] (calm blind)) ∧ PortTurn (busyHost [.readPort .cmdReady])) ∧
      portShows (found (busyHost [.readPort .cmdReady])) .cmdReady = .ok (.cmdReady false) :=
  ⟨⟨⟨.inl rfl, .inl rfl⟩, by decide +kernel, by decide +kernel⟩,
    ⟨⟨.inl rfl, .inl rfl⟩, by decide +kernel, by decide +kernel⟩,
    ⟨⟨.inl rfl, .inl rfl⟩, .inl rfl, .inr ⟨by decide, by decide⟩⟩, by decide +kernel⟩

/-- R29: `cmd_ready` read while BUSY is 0, and the command goes on where it was. -/
theorem test_read_while_busy :
    (nextOr answered (step (busyHost [.readPort .cmdReady]))).host.got = [.cmdReady false] ∧
      (nextOr answered (step (busyHost [.readPort .cmdReady]))).block.phase = .busy (.ssens 7) 1 [0x2F] := by
  decide +kernel

/-- L2.2: the codec ports with byte 0xA5, offset 4, width 3 give 0x02. -/
theorem test_codec_ports : (driven 4 3).cbGet = .ok 0x02 ∧ (driven 4 3).cbRangeOk = true ∧
    (driven 7 2).cbRangeOk = false := ⟨rfl, by decide, by decide⟩

/-- For ConnectChecksAddressThenTransport: a wrong address, no transport, and both right. -/
theorem witness_connect :
    (calm blind).block.phase = .idle ∧ Settled (withMoves [.connect 0x29 false] (calm blind)).host.boot ∧
      (withMoves [.connect 0x29 false] (calm blind)).host.moves = [.connect 0x29 false] ∧ (0x29 : BitVec 32) ≠ 0x28 ∧
      Settled (withMoves [.connect 0x28 true] (withBoot (.failed 5 0) (calm blind))).host.boot :=
  ⟨by decide, .inl rfl, rfl, by decide, .inr (.inr ⟨5, 0, rfl⟩)⟩

/-- A connect that probes, with this schedule. -/
def probingFrom (sched : List Slot) : State := withBoot (.probing 0) (machine blind sched [])

/-- For ProbeGivesUpAfterFiveFailures: five failures; a first success at the first and at the fifth attempt. -/
theorem witness_probe :
    ((probingFrom []).block.phase = .idle ∧ (probingFrom []).host.boot = .probing 0) ∧
      (∀ j < 5, writeOk ((probingFrom (List.replicate 5 (failSlot false))).env.slotAt j).reply = false) ∧
      writeOk ((probingFrom good).env.slotAt 0).reply = true ∧
      ((∀ j < 4, writeOk ((probingFrom (List.replicate 4 (failSlot false) ++ good)).env.slotAt j).reply = false) ∧
        writeOk ((probingFrom (List.replicate 4 (failSlot false) ++ good)).env.slotAt 4).reply = true) := by
  decide +kernel

/-- For ConnectEndsWithBringup. -/
theorem witness_bootEnds :
    (calm blind).block.phase = .idle ∧ (withBoot .issue (calm blind)).host.boot = .issue ∧
      (withBoot .await (calm blind)).host.boot = .await := by decide

/-- 70_reset_and_hazards.md R265: the presented BRINGUP runs while its commit is awaited. -/
theorem test_connect_bringup :
    goesOn (step (withBoot .issue (calm blind))) = true ∧
      regOf 0x27 (step (withBoot .issue (calm blind))) = some 0xFF := by decide +kernel

end Sys2Proof.Tests
end

section
/-! SUPPORT. The invariant of the machine: it holds at reset, every operation of the block keeps it, and so does every
step (R8, R22, R25, R47, R230). -/

namespace Sys2Proof.Machine

open Sys2Proof

/-! ### The block registers -/

theorem BlockInv.reset : BlockInv Block.reset := by constructor <;> decide

/-- R26: the accept step establishes the relations, whatever the registers held before. -/
theorem BlockInv.acceptClear (b : Block) : BlockInv b.acceptClear where
  info _ := rfl
  valid h := nomatch h
  codes := Nat.zero_le 3
  bc _ := rfl
  cal _ := rfl
  busy _ := ⟨rfl, rfl⟩

/-- A BUSY block has no error and no result, and its last commit's event is over (R26). -/
theorem BlockInv.clean_of_busy {b : Block} (h : BlockInv b) (hp : b.phase ≠ .idle) :
    b.err = 0 ∧ b.done = false ∧ b.resultValid = false :=
  ⟨(h.busy hp).1, (h.busy hp).2, Bool.eq_false_iff.2 fun hv => hp (h.valid hv).2⟩

/-- A block with no error, event or result may be BUSY anywhere in a command. -/
theorem BlockInv.setBusy {b : Block} (h : BlockInv b) (hc : b.err = 0 ∧ b.done = false ∧ b.resultValid = false)
    (op : Instr) (k : Nat) (locals : List Byte) : BlockInv { b with phase := .busy op k locals } := by
  obtain ⟨herr, hdone, hvalid⟩ := hc
  exact { h with
    valid := fun hv => absurd hv (by simp [hvalid])
    busy := fun _ => ⟨herr, hdone⟩ }

/-- R236: a pad register is written together with its warning bit, and the other bit is left. -/
theorem BlockInv.applyWarning {b : Block} (h : BlockInv b) (w : Warning) : BlockInv (b.applyWarning w) where
  info := by simpa using h.info
  valid := by simpa using h.valid
  codes := by simpa using h.codes
  bc := by
    cases w with
    | baseCountOut pads => simp [Block.applyWarning, wBcOut]
    | calibrationFailed pads => simpa [Block.applyWarning, wCalFail] using h.bc
    | notImplemented => simpa [Block.applyWarning, wNotImpl] using h.bc
  cal := by
    cases w with
    | baseCountOut pads => simpa [Block.applyWarning, wBcOut] using h.cal
    | calibrationFailed pads => simp [Block.applyWarning, wCalFail]
    | notImplemented => simpa [Block.applyWarning, wNotImpl] using h.cal
  busy := by simpa using h.busy

/-! ### The operations of the machine -/

theorem Inv.arrive {s : State} (h : Inv s) : Inv s.arrive := ⟨h.block, sensorSteps_wf _ _ h.sreg, h.plat⟩

theorem Inv.blockReset {s : State} (h : Inv s) : Inv s.blockReset := ⟨.reset, h.sreg, h.plat⟩

theorem Inv.abandon {s : State} (h : Inv s) : Inv s.abandon := ⟨.reset, h.sreg, h.plat⟩

theorem Inv.idleArrive {s : State} (h : Inv s) : Inv s.idleArrive := by
  unfold State.idleArrive
  split
  · exact h.arrive.blockReset
  · exact h.arrive

theorem Inv.accept {s : State} (h : Inv s) : Inv s.accept :=
  ⟨.acceptClear _, h.idleArrive.sreg, h.idleArrive.plat⟩

theorem Inv.storeReg {s : State} (h : Inv s) (a v : Byte) : Inv (s.storeReg a v) :=
  ⟨h.block, Sensor.store_wf _ h.sreg a v, h.plat⟩

theorem Inv.warned {s : State} (h : Inv s) (w : Warning) : Inv (s.warned w) :=
  ⟨h.block.applyWarning w, h.sreg, h.plat⟩

theorem Inv.doneRead {s : State} (h : Inv s) (a : Byte) : Inv (s.doneRead a) := ⟨h.block, h.sreg, h.plat⟩

theorem Inv.doneWrite {s : State} (h : Inv s) (a v : Byte) : Inv (s.doneWrite a v) :=
  ⟨h.block, (h.storeReg a v).sreg, h.plat⟩

/-- R26: a commit leaves the status registers as they are, and the block IDLE. -/
theorem Inv.commit {s : State} (h : Inv s) : Inv s.commit where
  block := { h.block with
    valid := fun hv => ⟨(h.block.valid hv).1, rfl⟩
    busy := fun hp => absurd rfl hp }
  sreg := h.sreg
  plat := h.plat

/-- R22: a command that has taken no error may complete with a result. -/
theorem Inv.completeWith {s : State} (h : Inv s) (he : s.block.err = 0) (r : Byte) : Inv (s.completeWith r) where
  block := { h.block with
    valid := fun _ => ⟨he, rfl⟩
    busy := fun hp => absurd rfl hp }
  sreg := h.sreg
  plat := h.plat

/-- R230: no error has the code NONE. -/
theorem Error.code_ne_zero (e : Error) : e.code ≠ 0 := by cases e <;> simp [Error.code]

/-- R230, R238: raising one of the block's own errors drops the result and records the error. -/
theorem Inv.raiseError {s : State} (h : Inv s) {e : Error} (he : e.code.toNat ≤ 3) : Inv (s.raiseError e) where
  block := { h.block with
    info := fun h0 => absurd h0 e.code_ne_zero
    valid := fun hv => nomatch hv
    codes := he
    busy := fun hp => absurd rfl hp }
  sreg := h.sreg
  plat := h.plat

theorem Inv.failRead {s : State} (h : Inv s) (a : Byte) : Inv (s.failRead a) :=
  have hlog : Inv (s.logRead a none) := ⟨h.block, h.sreg, h.plat⟩
  hlog.raiseError (by simp [Error.code])

/-- R55: whether or not the failed write reached the sensor. -/
theorem Inv.failWrite {s : State} (h : Inv s) (a v : Byte) (landed : Bool) : Inv (s.failWrite a v landed) := by
  have hland : Inv (if landed then s.storeReg a v else s) := by
    split
    · exact h.storeReg a v
    · exact h
  have hlog : Inv ((if landed then s.storeReg a v else s).logWrite a v false) := ⟨hland.block, hland.sreg, hland.plat⟩
  exact hlog.raiseError (by simp [Error.code])

/-- The invariant does not speak of the host's record. -/
theorem Inv.of_hostOnly {s t : State} (h : Inv s) (ht : HostOnly s t) : Inv t := by
  obtain ⟨hblock, hsensor, -, hplat, -⟩ := ht
  exact ⟨hblock ▸ h.block, hsensor ▸ h.sreg, hplat ▸ h.plat⟩

/-! ### A command in progress -/

/-- What a command's run keeps from its accept step to its end: the invariant, and the block BUSY. -/
def InCommand (s : State) : Prop := Inv s ∧ s.block.phase ≠ .idle

theorem InCommand.arrive_err {s : State} (h : InCommand s) : s.arrive.block.err = 0 := (h.1.block.busy h.2).1

theorem InCommand.arrive {s : State} (h : InCommand s) : InCommand s.arrive := ⟨h.1.arrive, h.2⟩

theorem InCommand.doneRead {s : State} (h : InCommand s) (a : Byte) : InCommand (s.doneRead a) := ⟨h.1.doneRead a, h.2⟩

theorem InCommand.doneWrite {s : State} (h : InCommand s) (a v : Byte) : InCommand (s.doneWrite a v) :=
  ⟨h.1.doneWrite a v, h.2⟩

theorem InCommand.warned {s : State} (h : InCommand s) (w : Warning) : InCommand (s.warned w) :=
  ⟨h.1.warned w, by simpa using h.2⟩

theorem InCommand.progress {s : State} (h : InCommand s) (op : Instr) (k : Nat) (locals : List Byte) :
    InCommand (s.progress op k locals) :=
  ⟨⟨h.1.block.setBusy (h.1.block.clean_of_busy h.2) op k locals, h.1.sreg, h.1.plat⟩, nofun⟩

/-- R26: an accepted command begins. -/
theorem Inv.accept_progress {s : State} (h : Inv s) (op : Instr) (k : Nat) (locals : List Byte) :
    InCommand (s.accept.progress op k locals) :=
  ⟨⟨h.accept.block.setBusy ⟨rfl, rfl, rfl⟩ op k locals, h.accept.sreg, h.accept.plat⟩, nofun⟩

/-! ### Commands and block steps -/

/-- A command's pseudocode run to its end keeps the invariant, however it ends. -/
theorem runScript_keeps_inv {R : Byte → Prop} {W : Byte → Byte → Prop} {scr : Script} (hall : scr.Allows R W)
    {s : State} (hs : InCommand s) : Inv (runScript scr s) :=
  runScript_induction (P := InCommand) (Q := Inv)
    (hread := fun a _ _ h _ _ => h.arrive.doneRead a)
    (hwrite := fun a v _ _ h _ _ => h.arrive.doneWrite a v)
    (hwarn := fun w _ h => h.warned w)
    (hreset := fun _ h _ => h.arrive.1.abandon)
    (hfailRead := fun a _ _ h _ _ => h.arrive.1.failRead a)
    (hfailWrite := fun a v _ _ h _ _ => h.arrive.1.failWrite a v _)
    (hresult := fun r _ h _ => h.arrive.1.completeWith h.arrive_err r)
    (hfinish := fun _ h _ => h.arrive.1.commit)
    scr hall s hs

/-- One block step of a command's pseudocode keeps the invariant. -/
theorem scriptStep_keeps_inv {R : Byte → Prop} {W : Byte → Byte → Prop} {scr : Script} (hall : scr.Allows R W)
    {s : State} (hs : InCommand s) (op : Instr) (k : Nat) (locals : List Byte) : Inv (scriptStep op k locals scr s) :=
  scriptStep_induction (P := InCommand) (Q := Inv)
    (hread := fun a _ _ h _ _ => ((h.arrive.doneRead a).progress op _ _).1)
    (hwrite := fun a v _ _ h _ _ => ((h.arrive.doneWrite a v).progress op _ _).1)
    (hwarn := fun w _ h => h.warned w)
    (hreset := fun _ h _ => h.arrive.1.abandon)
    (hfailRead := fun a _ _ h _ _ => h.arrive.1.failRead a)
    (hfailWrite := fun a v _ _ h _ _ => h.arrive.1.failWrite a v _)
    (hresult := fun r _ h _ => h.arrive.1.completeWith h.arrive_err r)
    (hfinish := fun _ h _ => h.arrive.1.commit)
    scr hall s hs

theorem Inv.blockStep {s : State} (h : Inv s) : Inv (blockStep s) := by
  unfold Machine.blockStep
  cases hp : s.block.phase with
  | idle => exact h
  | busy op k locals =>
    exact scriptStep_keeps_inv ((scriptOf_allows s.plat op).resume k locals) ⟨h, by simp [hp]⟩ op k locals

/-- R113: the only error an accept step finds by its own check is FieldRange. -/
theorem acceptCheck_code_le {i : Instr} {e : Error} (h : acceptCheck i = some e) : e.code.toNat ≤ 3 := by
  rcases acceptCheck_cases i with hn | ⟨off, wid, -, hs⟩
  · simp [hn] at h
  · obtain rfl : Error.fieldRange off wid = e := Option.some.inj (hs.symm.trans h)
    simp [Error.code]

theorem Inv.exec {i : Instr} {s t : State} (h : Inv s) (he : exec i s = .next t) : Inv t := by
  obtain ⟨-, ⟨e, hc, rfl⟩ | ⟨-, -, rfl⟩ | ⟨-, -, rfl⟩⟩ := exec_cases he
  · exact h.accept.raiseError (acceptCheck_code_le hc)
  · exact runScript_keeps_inv (scriptOf_allows s.plat i) (h.accept_progress i 0 [])
  · exact (h.accept_progress i 0 []).1

theorem Inv.acceptIllegal {s : State} (h : Inv s) (w : CmdWord) : Inv (acceptIllegal w s) :=
  h.accept.raiseError (by simp [Error.code])

/-- R264: a probe touches neither the block nor the sensor, beyond what falls before it. -/
theorem Inv.probeStep {s : State} (h : Inv s) (made : Nat) : Inv (probeStep made s) :=
  ⟨h.idleArrive.block, h.idleArrive.sreg, h.idleArrive.plat⟩

/-- Every way a step answers a next state keeps the invariant. -/
theorem Inv.step {s t : State} (h : Inv s) (hst : step s = .next t) : Inv t := by
  obtain ⟨-, ⟨-, rfl⟩ | ⟨-, -, ht⟩⟩ | ⟨-, ⟨w, i, u, -, -, hu, he⟩ | ⟨w, u, -, -, hu, rfl⟩ |
    ⟨-, ⟨made, -, rfl⟩ | ht⟩⟩ := step_cases hst
  · exact h.blockStep
  · exact h.arrive.of_hostOnly ht
  · exact (h.of_hostOnly hu).exec he
  · exact (h.of_hostOnly hu).acceptIllegal w
  · exact h.probeStep made
  · exact h.idleArrive.of_hostOnly ht

/-- The invariant after power-on, for any canonical `SREG` and any platform R8 admits (R45, R46). -/
theorem Inv.powerOn {p : Platform} {sreg : Memory} (hw : sreg.wf = true) (hp : p.ok = true) :
    Inv (State.powerOn p sreg) := ⟨.reset, hw, hp⟩

/-- Settles O42, by the inversion of `step` and, within a command, the induction over its pseudocode (`Inv.step`). -/
theorem stepKeepsInv : Obligations.StepKeepsInv := fun _ _ h hst => h.step hst

/-- Settles O41: the reset state is the power-on state with nothing listed in `SREG` and an admissible platform. -/
theorem invAtReset : Obligations.InvAtReset := .powerOn State.reset_wf Config.platform_ok

end Sys2Proof.Machine
end

section
/-! SUPPORT. What a block step can do, said once (R26, R54, R55, R260), and a command as its accept step and block
steps (R26, R276). -/

namespace Sys2Proof.Machine

open Sys2Proof Sys2Proof.Claims

/-! ### What each command's pseudocode stores to, and how long it is -/

/-- R170: the latch clear stores to main control only. -/
theorem clearLatch_stores {L : List Byte} (mode : LatchMode) {rest : Script} (hmain : Config.regMainControl ∈ L)
    (h : rest.Allows (fun _ => True) (fun a _ => a ∈ L)) :
    (Script.clearLatch mode rest).Allows (fun _ => True) (fun a _ => a ∈ L) := by
  cases mode with
  | blindZero => exact ⟨hmain, h⟩
  | rmw => exact ⟨trivial, fun _ => ⟨hmain, h⟩⟩

/-- R176: a query stores to main control only, and only where its answer is positive. -/
theorem answer_stores {L : List Byte} (mode : LatchMode) (positive : Bool) (r : Byte)
    (hmain : Config.regMainControl ∈ L) :
    (Script.answer mode positive r).Allows (fun _ => True) (fun a _ => a ∈ L) := by
  cases positive with
  | false => trivial
  | true => exact clearLatch_stores mode hmain trivial

/-- R131: CHKS's second test stores to no register. -/
theorem scriptChksCal_stores (p : Platform) (g bc : Byte) (L : List Byte) :
    (scriptChksCal p g bc).Allows (fun _ => True) (fun a _ => a ∈ L) := by
  unfold scriptChksCal
  split
  · exact ⟨trivial, fun _ => trivial⟩
  · trivial

/-- A command's pseudocode writes only to the registers that the command stores to (R42, R170). -/
theorem scriptOf_stores (p : Platform) (i : Instr) :
    (scriptOf p i).Allows (fun _ => True) (fun a _ => a ∈ storedRegs p i) := by
  have modify : ∀ (a v : Byte) (o w : Nat) (rest : Script), a ∈ storedRegs p i →
      rest.Allows (fun _ => True) (fun a _ => a ∈ storedRegs p i) →
      (Script.modify a v o w rest).Allows (fun _ => True) (fun a _ => a ∈ storedRegs p i) :=
    fun a v o w rest ha h => ⟨trivial, fun _ => ⟨ha, h⟩⟩
  cases i with
  | getb | setb | isls | isrs => trivial
  | gsens | gie | chkt | gpbp | gpbt | gpbe => exact ⟨trivial, fun _ => trivial⟩
  | ssens | siep | siea | spbp | spbt | spbe => exact modify _ _ _ _ _ (by simp [storedRegs]) trivial
  | bringup =>
    exact modify _ _ _ _ _ (by simp [storedRegs]) (modify _ _ _ _ _ (by simp [storedRegs])
      (clearLatch_stores p.latchMode (by simp [storedRegs]) trivial))
  | chks =>
    refine ⟨trivial, fun g => ?_⟩
    dsimp only
    split
    · exact ⟨trivial, fun b => scriptChksCal_stores p g _ _⟩
    · exact scriptChksCal_stores p g _ _
  | recal => exact ⟨by simp [storedRegs], trivial⟩
  | clri => exact clearLatch_stores p.latchMode (by simp [storedRegs]) trivial
  | gett | ist | ispt | ispb => exact ⟨trivial, fun _ => answer_stores p.latchMode _ _ (by simp [storedRegs])⟩

/-- The pseudocode issues at most `n` transactions. -/
def Script.AtMost : Script → Nat → Prop
  | .read _ rest, n + 1 => ∀ b, (rest b).AtMost n
  | .write _ _ rest, n + 1 => rest.AtMost n
  | .read _ _, 0 => False
  | .write _ _ _, 0 => False
  | .warn _ rest, n => rest.AtMost n
  | .result _, _ => True
  | .finish, _ => True

theorem Script.AtMost.succ {scr : Script} {n : Nat} (h : scr.AtMost n) : scr.AtMost (n + 1) := by
  induction scr generalizing n with
  | read a rest ih =>
    cases n with
    | zero => exact h.elim
    | succ n => exact fun b => ih b (h b)
  | write a v rest ih =>
    cases n with
    | zero => exact h.elim
    | succ n => exact ih h
  | warn w rest ih => exact ih h
  | result r => trivial
  | finish => trivial

/-- R170: a latch clear is at most a read and a write. -/
theorem Script.AtMost.clearLatch {rest : Script} {n : Nat} (h : rest.AtMost n) (mode : LatchMode) :
    (Script.clearLatch mode rest).AtMost (n + 2) := by
  cases mode with
  | blindZero => exact h.succ
  | rmw => exact fun _ => h

/-- R176: a query's transactions after its read are those of a latch clear. -/
theorem answer_atMost (mode : LatchMode) (positive : Bool) (r : Byte) (n : Nat) :
    (Script.answer mode positive r).AtMost (n + 2) := by
  cases positive with
  | false => trivial
  | true => exact Script.AtMost.clearLatch (rest := .result r) trivial mode

/-- R131: CHKS's second test issues at most one read. -/
theorem scriptChksCal_atMost (p : Platform) (g bc : Byte) (n : Nat) : (scriptChksCal p g bc).AtMost (n + 1) := by
  unfold scriptChksCal
  split
  · exact fun _ => trivial
  · trivial

/-- R276: no command issues more than six transactions. -/
theorem scriptOf_atMost (p : Platform) (i : Instr) : (scriptOf p i).AtMost 6 := by
  cases i with
  | getb | setb | isls | isrs | recal => trivial
  | gsens | gie | chkt | gpbp | gpbt | gpbe => exact fun _ => trivial
  | ssens | siep | siea | spbp | spbt | spbe => exact fun _ => trivial
  | bringup => exact fun _ _ => Script.AtMost.clearLatch (rest := .finish) (n := 0) trivial p.latchMode
  | chks =>
    intro g
    dsimp only
    split
    · exact fun b => scriptChksCal_atMost p g _ _
    · exact scriptChksCal_atMost p g _ _
  | clri => exact Script.AtMost.clearLatch (rest := .finish) (n := 4) trivial p.latchMode
  | gett | ist | ispt | ispb => exact fun _ => answer_atMost p.latchMode _ _ 3

/-! ### The ways a block step goes -/

/-- The two states differ at most in `WARN` and the pad registers that warnings write (R236). -/
def WarnedFrom (s u : State) : Prop :=
  ∃ warn bc cal, u = { s with block := { s.block with warn := warn, bcPads := bc, calPads := cal } }

theorem WarnedFrom.refl (s : State) : WarnedFrom s s := ⟨_, _, _, rfl⟩

theorem WarnedFrom.warned {s u : State} (h : WarnedFrom s u) (w : Warning) : WarnedFrom s (u.warned w) := by
  obtain ⟨warn, bc, cal, rfl⟩ := h
  cases w <;> exact ⟨_, _, _, rfl⟩

/-- R26: the ways a block step of BUSY(op, k, locals) goes, from the state `u` that its warnings lead to: a block
reset, a transaction that succeeds, one that fails, or the commit. -/
inductive StepsFrom (op : Instr) (k : Nat) (locals : List Byte) (u : State) : State → Prop
  | reset (hr : (u.env.slotAt 0).reset = true) : StepsFrom op k locals u u.arrive.abandon
  | read (a : Byte) (hr : (u.env.slotAt 0).reset = false) :
    StepsFrom op k locals u ((u.arrive.doneRead a).progress op (k + 1) (locals ++ [u.arrive.sensor.reg a]))
  | write (a v : Byte) (ha : a ∈ storedRegs u.plat op) (hr : (u.env.slotAt 0).reset = false) :
    StepsFrom op k locals u ((u.arrive.doneWrite a v).progress op (k + 1) locals)
  | readFails (a : Byte) (hr : (u.env.slotAt 0).reset = false) : StepsFrom op k locals u (u.arrive.failRead a)
  | writeFails (a v : Byte) (landed : Bool) (ha : a ∈ storedRegs u.plat op) (hr : (u.env.slotAt 0).reset = false) :
    StepsFrom op k locals u (u.arrive.failWrite a v landed)
  | result (r : Byte) (hr : (u.env.slotAt 0).reset = false) : StepsFrom op k locals u (u.arrive.completeWith r)
  | finish (hr : (u.env.slotAt 0).reset = false) : StepsFrom op k locals u u.arrive.completeNone

/-- An IDLE block takes no block step. -/
theorem blockStep_idle {s : State} (h : s.block.phase = .idle) : blockStep s = s := by
  unfold blockStep; rw [h]

theorem blockStep_busy {s : State} {op : Instr} {k : Nat} {locals : List Byte}
    (h : s.block.phase = .busy op k locals) :
    blockStep s = scriptStep op k locals ((scriptOf s.plat op).resume k locals) s := by
  unfold blockStep; rw [h]

/-- What a block step of a BUSY block can do. -/
theorem blockStep_stepsFrom {s : State} {op : Instr} {k : Nat} {locals : List Byte}
    (h : s.block.phase = .busy op k locals) : ∃ u, WarnedFrom s u ∧ StepsFrom op k locals u (blockStep s) := by
  have plat : ∀ {u}, WarnedFrom s u → s.plat = u.plat := by rintro _ ⟨_, _, _, rfl⟩; rfl
  rw [blockStep_busy h]
  exact scriptStep_induction (P := WarnedFrom s) (Q := fun t => ∃ u, WarnedFrom s u ∧ StepsFrom op k locals u t)
    (hread := fun a u _ hu hr _ => ⟨u, hu, .read a hr⟩)
    (hwrite := fun a v u ha hu hr _ => ⟨u, hu, .write a v (plat hu ▸ ha) hr⟩)
    (hwarn := fun w _ hu => hu.warned w)
    (hreset := fun u hu hr => ⟨u, hu, .reset hr⟩)
    (hfailRead := fun a u _ hu hr _ => ⟨u, hu, .readFails a hr⟩)
    (hfailWrite := fun a v u ha hu hr _ => ⟨u, hu, .writeFails a v _ (plat hu ▸ ha) hr⟩)
    (hresult := fun r u hu hr => ⟨u, hu, .result r hr⟩)
    (hfinish := fun u hu hr => ⟨u, hu, .finish hr⟩)
    _ ((scriptOf_stores s.plat op).resume k locals) s (.refl s)

/-- A block step takes one slot. -/
theorem blockStep_env {s : State} {op : Instr} {k : Nat} {locals : List Byte}
    (h : s.block.phase = .busy op k locals) : (blockStep s).env = s.env.advance := by
  obtain ⟨u, ⟨warn, bc, cal, rfl⟩, ht⟩ := blockStep_stepsFrom h
  generalize blockStep s = t at ht ⊢
  cases ht with
  | writeFails a v landed => cases landed <;> rfl
  | reset | read | write | readFails | result | finish => rfl

end Sys2Proof.Machine
end

section
/-! SUPPORT. What block steps change and what they leave: the commit, the frame, the sensor (R26, R27, R41, R42). -/

namespace Sys2Proof.Machine

open Sys2Proof Sys2Proof.Claims

/-- R26, R27: `t` is `s` after a commit, the block IDLE; the host is as before. -/
structure Commits (s t : State) : Prop where
  phase : t.block.phase = .idle
  cpc : t.block.cpc = s.block.cpc + 1
  done : t.block.done = true
  commits : ∃ r, t.trace.commits = r :: s.trace.commits
  host : t.host = s.host

/-- `t` is `s` with the command still in progress: no commit, and the host is as before. -/
structure StaysBusy (s t : State) : Prop where
  phase : t.block.phase ≠ .idle
  cpc : t.block.cpc = s.block.cpc
  done : t.block.done = s.block.done
  commits : t.trace.commits = s.trace.commits
  host : t.host = s.host

theorem StaysBusy.trans {s u t : State} (h : StaysBusy s u) (h' : StaysBusy u t) : StaysBusy s t :=
  ⟨h'.phase, h'.cpc.trans h.cpc, h'.done.trans h.done, h'.commits.trans h.commits, h'.host.trans h.host⟩

theorem StaysBusy.commits_of {s u t : State} (h : StaysBusy s u) (h' : Commits u t) : Commits s t where
  phase := h'.phase
  cpc := h.cpc ▸ h'.cpc
  done := h'.done
  commits := h.commits ▸ h'.commits
  host := h'.host.trans h.host

/-- R26, R27: a block step with no reset before it commits once, or leaves the command in progress. -/
theorem blockStep_noReset {s : State} (hp : s.block.phase ≠ .idle) (hr : (s.env.slotAt 0).reset = false) :
    Commits s (blockStep s) ∨ StaysBusy s (blockStep s) := by
  cases hb : s.block.phase with
  | idle => exact absurd hb hp
  | busy op k locals =>
    obtain ⟨u, ⟨warn, bc, cal, rfl⟩, ht⟩ := blockStep_stepsFrom hb
    generalize blockStep s = t at ht ⊢
    cases ht with
    | reset hreset => exact absurd (hr.symm.trans hreset) (by decide)
    | read | write => exact .inr ⟨nofun, rfl, rfl, rfl, rfl⟩
    | writeFails a v landed => cases landed <;> exact .inl ⟨rfl, rfl, rfl, ⟨_, rfl⟩, rfl⟩
    | readFails | result | finish => exact .inl ⟨rfl, rfl, rfl, ⟨_, rfl⟩, rfl⟩

/-- R260: a reset before a block step abandons the command: the block registers are reset, nothing is committed or
put on the bus, and the sensor has only taken its own steps. -/
theorem blockStep_reset {s : State} (hp : s.block.phase ≠ .idle) (hr : (s.env.slotAt 0).reset = true) :
    blockStep s = s.arrive.abandon := by
  cases hb : s.block.phase with
  | idle => exact absurd hb hp
  | busy op k locals =>
    obtain ⟨u, ⟨warn, bc, cal, rfl⟩, ht⟩ := blockStep_stepsFrom hb
    generalize blockStep s = t at ht ⊢
    cases ht with
    | reset => rfl
    | read _ h | write _ _ _ h | readFails _ h | writeFails _ _ _ _ h | result _ h | finish h =>
      exact absurd (hr.symm.trans h) (by decide)

/-- What every block step leaves, a reset or none in it: the parameters, the grain, the host's moves, record and
ports; the histories only grow. -/
structure Frame (s t : State) : Prop where
  plat : t.plat = s.plat
  grain : t.env.grain = s.env.grain
  host : ∃ boot, t.host = { s.host with boot := boot }
  bus : ∃ new, t.trace.bus = new ++ s.trace.bus
  commits : ∃ new, t.trace.commits = new ++ s.trace.commits

theorem Frame.refl (s : State) : Frame s s := ⟨rfl, rfl, ⟨_, rfl⟩, ⟨[], rfl⟩, ⟨[], rfl⟩⟩

theorem Frame.trans {s u t : State} (h : Frame s u) (h' : Frame u t) : Frame s t := by
  obtain ⟨hplat, hgrain, ⟨boot, hhost⟩, ⟨bus, hbus⟩, ⟨commits, hcommits⟩⟩ := h
  obtain ⟨hplat', hgrain', ⟨boot', hhost'⟩, ⟨bus', hbus'⟩, ⟨commits', hcommits'⟩⟩ := h'
  exact ⟨hplat'.trans hplat, hgrain'.trans hgrain, ⟨boot', by rw [hhost', hhost]⟩,
    ⟨bus' ++ bus, by rw [hbus', hbus, List.append_assoc]⟩,
    ⟨commits' ++ commits, by rw [hcommits', hcommits, List.append_assoc]⟩⟩

/-- R26, R28: the accept step changes neither the host nor the histories. -/
theorem Frame.accept (s : State) : Frame s s.accept :=
  ⟨by simp, by simp, ⟨_, s.accept_host⟩, ⟨[], by simp⟩, ⟨[], by simp⟩⟩

theorem Frame.progress (op : Instr) (k : Nat) (locals : List Byte) (s : State) : Frame s (s.progress op k locals) :=
  ⟨rfl, rfl, ⟨_, rfl⟩, ⟨[], rfl⟩, ⟨[], rfl⟩⟩

theorem Frame.raiseError (e : Error) (s : State) : Frame s (s.raiseError e) :=
  ⟨rfl, rfl, ⟨_, rfl⟩, ⟨[], rfl⟩, ⟨[_], rfl⟩⟩

theorem blockStep_frame {s : State} {op : Instr} {k : Nat} {locals : List Byte}
    (h : s.block.phase = .busy op k locals) : Frame s (blockStep s) := by
  have grain : s.arrive.env.grain = s.env.grain := by simp
  obtain ⟨u, ⟨warn, bc, cal, rfl⟩, ht⟩ := blockStep_stepsFrom h
  generalize blockStep s = t at ht ⊢
  cases ht with
  | reset => exact ⟨rfl, grain, ⟨_, rfl⟩, ⟨[], rfl⟩, ⟨[], rfl⟩⟩
  | read | write => exact ⟨rfl, grain, ⟨_, rfl⟩, ⟨[_], rfl⟩, ⟨[], rfl⟩⟩
  | readFails => exact ⟨rfl, grain, ⟨_, rfl⟩, ⟨[_], rfl⟩, ⟨[_], rfl⟩⟩
  | writeFails a v landed => cases landed <;> exact ⟨rfl, grain, ⟨_, rfl⟩, ⟨[_], rfl⟩, ⟨[_], rfl⟩⟩
  | result | finish => exact ⟨rfl, grain, ⟨_, rfl⟩, ⟨[], rfl⟩, ⟨[_], rfl⟩⟩

/-- A block step leaves BUSY, or goes on with the same command (R26). -/
theorem blockStep_op {s : State} {op op' : Instr} {k k' : Nat} {locals locals' : List Byte}
    (h : s.block.phase = .busy op k locals) (h' : (blockStep s).block.phase = .busy op' k' locals') : op' = op := by
  obtain ⟨u, ⟨warn, bc, cal, rfl⟩, ht⟩ := blockStep_stepsFrom h
  generalize blockStep s = t at ht h'
  cases ht with
  | read | write => exact (Phase.busy.inj h').1.symm
  | reset | readFails | writeFails | result | finish => exact nomatch h'

/-- What the sensor steps before a block step keep, and the stores of the command too, the block step keeps. -/
theorem blockStep_keeps_sensor {α : Type} {f : Sensor → α} {s : State} {op : Instr} {k : Nat} {locals : List Byte}
    (h : s.block.phase = .busy op k locals)
    (hstore : ∀ a ∈ storedRegs s.plat op, ∀ v z, f (Sensor.store s.plat a v z) = f z)
    (hsteps : ∀ z, f (sensorSteps s.plat (s.env.slotAt 0).sensor z) = f z) :
    f (blockStep s).sensor = f s.sensor := by
  have harrive : f s.arrive.sensor = f s.sensor := hsteps _
  obtain ⟨u, ⟨warn, bc, cal, rfl⟩, ht⟩ := blockStep_stepsFrom h
  generalize blockStep s = t at ht ⊢
  cases ht with
  | write a v ha => exact (hstore a ha v _).trans harrive
  | writeFails a v landed ha =>
    cases landed with
    | false => exact harrive
    | true => exact (hstore a ha v _).trans harrive
  | reset | read | readFails | result | finish => exact harrive

/-! ### Several block steps -/

theorem blockSteps_idle {s : State} (h : s.block.phase = .idle) (n : Nat) : blockSteps n s = s := by
  induction n with
  | zero => rfl
  | succ n ih => rw [blockSteps, blockStep_idle h, ih]

/-- What every block step of a command keeps, given what its slot is like, any number of them keep. -/
theorem blockSteps_induction {P : State → Prop} {B : Slot → Prop}
    (hstep : ∀ u op k locals, u.block.phase = .busy op k locals → P u → B (u.env.slotAt 0) → P (blockStep u))
    {n : Nat} {s : State} (hB : ∀ j < n, B (s.env.slotAt j)) (hs : P s) : P (blockSteps n s) := by
  induction n generalizing s with
  | zero => exact hs
  | succ n ih =>
    cases hp : s.block.phase with
    | idle => rwa [blockSteps_idle hp]
    | busy op k locals =>
      refine ih (fun j hj => ?_) (hstep s op k locals hp hs (hB 0 n.succ_pos))
      rw [blockStep_env hp, Env.slotAt_advance]
      exact hB (j + 1) (Nat.succ_lt_succ hj)

theorem blockSteps_frame (n : Nat) (s : State) : Frame s (blockSteps n s) :=
  blockSteps_induction (P := Frame s) (B := fun _ => True)
    (fun _ _ _ _ hp hu _ => hu.trans (blockStep_frame hp)) (fun _ _ => trivial) (.refl s)

/-- R26, R27: block steps with no reset in them leave the command in progress, or commit it once. -/
theorem blockSteps_noReset {n : Nat} {s : State} (hp : s.block.phase ≠ .idle)
    (hr : ∀ j < n, (s.env.slotAt j).reset = false) : Commits s (blockSteps n s) ∨ StaysBusy s (blockSteps n s) :=
  blockSteps_induction (P := fun u => Commits s u ∨ StaysBusy s u) (B := fun c => c.reset = false)
    (fun u op k locals hb hu hc => by
      have hbusy : u.block.phase ≠ .idle := by simp [hb]
      rcases hu with hu | hu
      · exact absurd hu.phase hbusy
      · exact (blockStep_noReset hbusy hc).imp hu.commits_of hu.trans)
    hr (.inr ⟨hp, rfl, rfl, rfl, rfl⟩)

/-- What the stores of a command and the sensor steps between its block steps keep, its block steps keep. -/
theorem blockSteps_keep_sensor {α : Type} {f : Sensor → α} {n : Nat} {s : State} {op : Instr} {k : Nat}
    {locals : List Byte} (hp : s.block.phase = .busy op k locals)
    (hstore : ∀ a ∈ storedRegs s.plat op, ∀ v z, f (Sensor.store s.plat a v z) = f z)
    (hsteps : ∀ j < n, ∀ z, f (sensorSteps s.plat (s.env.slotAt j).sensor z) = f z) :
    f (blockSteps n s).sensor = f s.sensor := by
  obtain ⟨-, -, hkept⟩ := blockSteps_induction
    (P := fun u => u.plat = s.plat ∧ (∀ op' k' l', u.block.phase = .busy op' k' l' → op' = op) ∧
      f u.sensor = f s.sensor)
    (B := fun c => ∀ z, f (sensorSteps s.plat c.sensor z) = f z) (n := n) (s := s)
    (fun u op' k' l' hb hu hc => by
      obtain ⟨hplat, hop, hf⟩ := hu
      obtain rfl := hop op' k' l' hb
      refine ⟨(blockStep_frame hb).plat.trans hplat, fun _ _ _ h => blockStep_op hb h, ?_⟩
      exact (blockStep_keeps_sensor hb (hplat ▸ hstore) (hplat ▸ hc)).trans hf)
    hsteps ⟨rfl, fun op' k' l' h => (Phase.busy.inj (h.symm.trans hp)).1, rfl⟩
  exact hkept

end Sys2Proof.Machine
end

section
/-! SUPPORT. A command as its accept step and block steps (R26, R276): the grain does not matter to where it ends. -/

namespace Sys2Proof.Machine

open Sys2Proof Sys2Proof.Claims

/-- The state with another grain (log entry 6). -/
def State.withGrain (g : Grain) (s : State) : State := { s with env := { s.env with grain := g } }

/-- The slots do not depend on the grain. -/
theorem State.withGrain_arrive (g : Grain) (s : State) : (s.withGrain g).arrive = s.arrive.withGrain g := by
  unfold State.arrive State.withGrain Env.advance
  cases s.env.sched <;> rfl

theorem State.withGrain_accept (g : Grain) (s : State) : (s.withGrain g).accept = s.accept.withGrain g := by
  have hnext : (s.withGrain g).env.next = s.env.next := rfl
  unfold State.accept State.idleArrive
  rw [hnext, State.withGrain_arrive]
  split <;> rfl

theorem Script.resume_zero (scr : Script) (locals : List Byte) : scr.resume 0 locals = scr := by cases scr <;> rfl

/-- `scr` is what is left of `op`'s pseudocode once its `k` transactions and the warnings after them are done: its
coming transactions are those that follow the `k`-th. -/
def LeftOf (p : Platform) (op : Instr) (k : Nat) (locals : List Byte) (scr : Script) : Prop :=
  ∀ j bs, (scriptOf p op).resume (k + (j + 1)) (locals ++ bs) = scr.resume (j + 1) bs

theorem LeftOf.all (p : Platform) (op : Instr) : LeftOf p op 0 [] (scriptOf p op) := fun j bs => by
  rw [Nat.zero_add, List.nil_append]

/-- What is left after a read that returned `b`. -/
theorem LeftOf.resume_read {p : Platform} {op : Instr} {k : Nat} {locals : List Byte} {a : Byte} {rest : Byte → Script}
    (h : LeftOf p op k locals (.read a rest)) (b : Byte) (j : Nat) (bs : List Byte) :
    (scriptOf p op).resume (k + 1 + j) (locals ++ [b] ++ bs) = (rest b).resume j bs := by
  have := h j (b :: bs)
  rwa [show k + (j + 1) = k + 1 + j by omega, ← List.singleton_append, ← List.append_assoc] at this

/-- What is left after a write. -/
theorem LeftOf.resume_write {p : Platform} {op : Instr} {k : Nat} {locals : List Byte} {a v : Byte} {rest : Script}
    (h : LeftOf p op k locals (.write a v rest)) (j : Nat) (bs : List Byte) :
    (scriptOf p op).resume (k + 1 + j) (locals ++ bs) = rest.resume j bs := by
  have := h j bs
  rwa [show k + (j + 1) = k + 1 + j by omega] at this

theorem State.progress_arrive (op : Instr) (k : Nat) (locals : List Byte) (s : State) :
    (s.progress op k locals).arrive = s.arrive.progress op k locals := rfl

/-- R26: the rest of a command's pseudocode, run to its end, is a block step and then at most as many more as it has
transactions. -/
theorem runScript_eq_blockSteps {p : Platform} {op : Instr} {scr : Script} {n : Nat} (hn : scr.AtMost n) {k : Nat}
    {locals : List Byte} (hleft : LeftOf p op k locals scr) {s : State} (hplat : s.plat = p) :
    ∃ m ≤ n, blockSteps m (scriptStep op k locals scr (s.progress op k locals)) = runScript scr s := by
  have hnext : ∀ k locals (s : State), (s.progress op k locals).env.next = s.env.next := fun _ _ _ => rfl
  induction scr generalizing n k locals s with
  | read a rest ih =>
    cases n with
    | zero => exact hn.elim
    | succ n =>
      simp only [scriptStep, runScript, State.progress_arrive, hnext]
      split
      · exact ⟨0, Nat.zero_le _, rfl⟩
      · split
        · have hnow := hleft.resume_read (s.arrive.sensor.reg a) 0 []
          rw [List.append_nil, Script.resume_zero] at hnow
          obtain ⟨m, hm, heq⟩ := ih (s.arrive.sensor.reg a) (hn _) (fun j bs => hleft.resume_read _ (j + 1) bs)
            (s := s.arrive.doneRead a) hplat
          refine ⟨m + 1, Nat.succ_le_succ hm, ?_⟩
          rw [← heq, ← hnow, ← hplat]
          rfl
        · exact ⟨0, Nat.zero_le _, rfl⟩
  | write a v rest ih =>
    cases n with
    | zero => exact hn.elim
    | succ n =>
      simp only [scriptStep, runScript, State.progress_arrive, hnext]
      split
      · exact ⟨0, Nat.zero_le _, rfl⟩
      · split
        · have hnow := hleft.resume_write 0 []
          rw [List.append_nil, Script.resume_zero] at hnow
          obtain ⟨m, hm, heq⟩ := ih hn (fun j bs => hleft.resume_write (j + 1) bs) (s := s.arrive.doneWrite a v) hplat
          refine ⟨m + 1, Nat.succ_le_succ hm, ?_⟩
          rw [← heq, ← hnow, ← hplat]
          rfl
        · exact ⟨0, Nat.zero_le _, by cases s.env.next.landed <;> rfl⟩
  | warn w rest ih =>
    have hwarn : (s.progress op k locals).warned w = (s.warned w).progress op k locals := by cases w <;> rfl
    simp only [scriptStep, runScript, hwarn]
    exact ih hn hleft hplat
  | result r =>
    simp only [scriptStep, runScript, State.progress_arrive, hnext]
    exact ⟨0, Nat.zero_le _, by split <;> rfl⟩
  | finish =>
    simp only [scriptStep, runScript, State.progress_arrive, hnext]
    exact ⟨0, Nat.zero_le _, by split <;> rfl⟩

/-- R26, R276: a command's pseudocode after its accept step is at most seven block steps. -/
theorem runScript_accept_eq_blockSteps (i : Instr) (s : State) :
    ∃ n < longest, blockSteps n (s.accept.progress i 0 []) =
      runScript (scriptOf s.plat i) (s.accept.progress i 0 []) := by
  obtain ⟨m, hm, heq⟩ := runScript_eq_blockSteps (scriptOf_atMost s.plat i) (.all s.plat i)
    (s := s.accept.progress i 0 []) s.accept_plat
  refine ⟨m + 1, Nat.succ_lt_succ (Nat.lt_succ_of_le hm), ?_⟩
  rw [← heq, blockSteps, blockStep_busy rfl, Script.resume_zero, State.progress_plat, State.accept_plat]
  rfl

/-- What a command's pseudocode does is the same at either grain. -/
theorem runScript_withGrain (g : Grain) (scr : Script) (s : State) :
    runScript scr (s.withGrain g) = (runScript scr s).withGrain g := by
  have hnext : ∀ s : State, (s.withGrain g).env.next = s.env.next := fun _ => rfl
  induction scr generalizing s with
  | read a rest ih =>
    simp only [runScript, State.withGrain_arrive, hnext]
    split_ifs
    · rfl
    · exact ih _ (s.arrive.doneRead a)
    · rfl
  | write a v rest ih =>
    simp only [runScript, State.withGrain_arrive, hnext]
    split_ifs
    · rfl
    · exact ih (s.arrive.doneWrite a v)
    · cases s.env.next.landed <;> rfl
  | warn w rest ih => exact ih (s.warned w)
  | result r => simp only [runScript, State.withGrain_arrive, hnext]; split <;> rfl
  | finish => simp only [runScript, State.withGrain_arrive, hnext]; split <;> rfl

/-- A command run whole ends IDLE, however it ends (R26). -/
theorem runScript_phase (scr : Script) (s : State) : (runScript scr s).block.phase = .idle := by
  induction scr generalizing s with
  | read a rest ih =>
    simp only [runScript]
    split_ifs
    · rfl
    · exact ih _ _
    · rfl
  | write a v rest ih =>
    simp only [runScript]
    split_ifs
    · rfl
    · exact ih _
    · rfl
  | warn w rest ih => exact ih _
  | result r => simp only [runScript]; split <;> rfl
  | finish => simp only [runScript]; split <;> rfl

/-- A command accepted in IDLE ends with its accept check's error, or is its accept step and fewer than `longest` block
steps; with the whole-command grain it ends IDLE. -/
theorem exec_blockSteps {i : Instr} {s t : State} (h : exec i s = .next t) :
    (∃ e, acceptCheck i = some e ∧ t = s.accept.raiseError e) ∨
      acceptCheck i = none ∧ (s.env.grain = .command → t.block.phase = .idle) ∧
        ∃ n < longest, t = blockSteps n (s.accept.progress i 0 []) := by
  obtain ⟨-, herr | ⟨hc, -, rfl⟩ | ⟨hc, hg, rfl⟩⟩ := exec_cases h
  · exact .inl herr
  · obtain ⟨n, hn, heq⟩ := runScript_accept_eq_blockSteps i s
    exact .inr ⟨hc, fun _ => runScript_phase _ _, n, hn, heq.symm⟩
  · exact .inr ⟨hc, by simp [hg], 0, by decide, rfl⟩

/-- An accept check that finds an error raises it at either grain (R113). -/
theorem exec_refuses {i : Instr} {s : State} {e : Error} (hp : s.block.phase = .idle) (hc : acceptCheck i = some e) :
    exec i s = .next (s.accept.raiseError e) := by
  simp [exec_eq_begin, beginCommand, hp, hc]

/-- A command accepted in IDLE at the grain of one block step takes its accept step only. -/
theorem exec_accepts {i : Instr} {s : State} (hp : s.block.phase = .idle) (hg : s.env.grain = .transaction)
    (hc : acceptCheck i = none) : exec i s = .next (s.accept.progress i 0 []) := by
  simp [exec_eq_begin, beginCommand, hp, hc, hg]

/-- Settles O37: at the grain of one block step the command is left BUSY after its accept step, and its block steps
then run the pseudocode that the other grain runs at once (`runScript_accept_eq_blockSteps`). -/
theorem wholeCommandIsItsBlockSteps : Obligations.WholeCommandIsItsBlockSteps := by
  intro i s hp hg
  have haccept := s.withGrain_accept .transaction
  cases hc : acceptCheck i with
  | some e =>
    refine ⟨_, _, 0, exec_refuses hp hc, exec_refuses (s := s.withGrain .transaction) hp hc, by decide, ?_⟩
    rw [haccept]
    rfl
  | none =>
    obtain ⟨n, hn, heq⟩ := runScript_accept_eq_blockSteps i (s.withGrain .transaction)
    refine ⟨_, _, n, exec_runs (by simp [State.cmdReady, hp]) hg hc,
      exec_accepts (s := s.withGrain .transaction) hp rfl hc, Nat.le_of_lt_succ hn, ?_⟩
    rw [heq, haccept]
    exact runScript_withGrain .transaction (scriptOf s.plat i) (s.accept.progress i 0 [])

end Sys2Proof.Machine
end

section
/-! SUPPORT. What every command changes and leaves, from its block steps (R26, R27, R41, R42), and the statements that
follow. -/

namespace Sys2Proof.Machine

open Sys2Proof Sys2Proof.Claims

/-! ### The slots of a command -/

theorem noReset_iff {s : State} {n : Nat} : noReset s n = true ↔ ∀ j < n, (s.env.slotAt j).reset = false := by
  simp [noReset]

theorem quiet_iff {s : State} {n : Nat} : quiet s n = true ↔ ∀ j < n, (s.env.slotAt j).sensor = [] := by
  simp [quiet]

/-- The block steps of a command find the slots after that of its accept step. -/
theorem State.accept_progress_slotAt (s : State) (op : Instr) (j : Nat) :
    (s.accept.progress op 0 []).env.slotAt j = s.env.slotAt (j + 1) := by simp

/-! ### Commits -/

/-- R26, R27: a command with no reset in it commits once, or is at the grain of one block step and still BUSY. -/
theorem exec_noReset {i : Instr} {s t : State} (h : exec i s = .next t) (hr : noReset s longest = true) :
    Commits s.accept t ∨ (s.env.grain = .transaction ∧ StaysBusy s.accept t) := by
  have hslots := noReset_iff.1 hr
  rcases exec_blockSteps h with ⟨e, -, rfl⟩ | ⟨-, hidle, n, hn, rfl⟩
  · exact .inl ⟨rfl, rfl, rfl, ⟨_, rfl⟩, rfl⟩
  · have hbegun : StaysBusy s.accept (s.accept.progress i 0 []) := ⟨nofun, rfl, rfl, rfl, rfl⟩
    have hbusy := blockSteps_noReset hbegun.phase (n := n) fun j hj => by
      rw [State.accept_progress_slotAt]
      exact hslots (j + 1) (by omega)
    rcases hbusy with hc | hb
    · exact .inl (hbegun.commits_of hc)
    · refine .inr ⟨?_, hbegun.trans hb⟩
      cases hg : s.env.grain with
      | command => exact absurd (hidle hg) hb.phase
      | transaction => rfl

/-- R27: `CPC` and the commit history after a step that commits once or not at all. -/
def CountsCommits (s t : State) : Prop :=
  ∃ new, t.trace.commits = new ++ s.trace.commits ∧ new.length ≤ 1 ∧
    t.block.cpc = s.block.cpc + BitVec.ofNat 32 new.length

theorem CountsCommits.of_none {s t : State} (hc : t.trace.commits = s.trace.commits) (hb : t.block.cpc = s.block.cpc) :
    CountsCommits s t := ⟨[], hc, Nat.zero_le _, by simp [hb]⟩

theorem Commits.counts {s t : State} (h : Commits s t) : CountsCommits s t := by
  obtain ⟨r, hr⟩ := h.commits
  exact ⟨[r], hr, Nat.le_refl _, h.cpc⟩

theorem StaysBusy.counts {s t : State} (h : StaysBusy s t) : CountsCommits s t := .of_none h.commits h.cpc

/-- Only `CPC` and the commit history of the state before matter. -/
theorem CountsCommits.congr {s u t : State} (h : CountsCommits u t) (hc : u.trace.commits = s.trace.commits)
    (hb : u.block.cpc = s.block.cpc) : CountsCommits s t := by
  obtain ⟨new, h1, h2, h3⟩ := h
  exact ⟨new, hc ▸ h1, h2, hb ▸ h3⟩

theorem State.accept_cpc {s : State} (hr : (s.env.slotAt 0).reset = false) : s.accept.block.cpc = s.block.cpc := by
  rw [State.accept_block_noReset hr]; rfl

theorem State.idleArrive_noReset {s : State} (hr : (s.env.slotAt 0).reset = false) : s.idleArrive = s.arrive := by
  simp [State.idleArrive, hr]

/-- Settles O34: `exec_noReset` for the commands, `blockStep_noReset` for the block steps; no other step commits. -/
theorem cpcCountsCommits : Obligations.CpcCountsCommits := by
  constructor
  · intro s t hst hr
    have hr0 : (s.env.slotAt 0).reset = false := noReset_iff.1 hr 0 (by decide)
    have accepted : ∀ {u}, HostOnly s u → CountsCommits u.accept t → CountsCommits s t := by
      rintro u ⟨hblock, -, henv, -, htrace⟩ h
      exact h.congr (by simp [htrace]) (by rw [State.accept_cpc (henv ▸ hr0), hblock])
    have hostStep : HostOnly s.arrive t → CountsCommits s t := fun ⟨hblock, _, _, _, htrace⟩ =>
      .of_none (congrArg Trace.commits htrace) (congrArg Block.cpc hblock)
    obtain ⟨hp, ⟨-, rfl⟩ | ⟨-, -, ht⟩⟩ | ⟨-, ⟨w, i, u, -, -, hu, he⟩ | ⟨w, u, -, -, hu, rfl⟩ |
      ⟨-, ⟨made, -, rfl⟩ | ht⟩⟩ := step_cases hst
    · exact (blockStep_noReset hp hr0).elim Commits.counts StaysBusy.counts
    · exact hostStep ht
    · have hru : noReset u longest = true := by
        obtain ⟨-, -, henv, -⟩ := hu
        rwa [noReset, henv]
      exact accepted hu ((exec_noReset he hru).elim Commits.counts fun h => h.2.counts)
    · exact accepted hu (Commits.counts ⟨rfl, rfl, rfl, ⟨_, rfl⟩, rfl⟩)
    · exact CountsCommits.of_none (by simp [probeStep]) (by simp [probeStep, State.idleArrive_noReset hr0])
    · exact hostStep (State.idleArrive_noReset hr0 ▸ ht)
  · intro i s t he hr hg
    rcases exec_noReset he hr with hc | ⟨ht, -⟩
    · obtain ⟨r, hcommits⟩ := hc.commits
      exact ⟨by rw [hc.cpc, State.accept_cpc (noReset_iff.1 hr 0 (by decide))], hc.phase, r, by simpa using hcommits⟩
    · exact absurd (hg.symm.trans ht) (by decide)

/-- R29: a step in IDLE with no word on `cmd` finds the block registers as they are, or reset, and leaves them. -/
theorem step_noWord {s t : State} (hp : s.block.phase = .idle) (hc : s.cmd = none) (hst : step s = .next t) :
    t.block = (if (s.env.slotAt 0).reset then Block.reset else s.block) ∧
      t.trace.commits = s.trace.commits ∧ t.sensor = s.arrive.sensor := by
  obtain ⟨hbusy, -⟩ | ⟨-, ⟨w, i, u, hw, -⟩ | ⟨w, u, hw, -⟩ | ⟨-, ⟨made, -, rfl⟩ | ht⟩⟩ := step_cases hst
  · exact absurd hp hbusy
  · simp [hc] at hw
  · simp [hc] at hw
  · exact ⟨s.idleArrive_block, by simp [probeStep], s.idleArrive_sensor⟩
  · obtain ⟨hblock, hsensor, -, -, htrace⟩ := ht
    exact ⟨hblock.trans s.idleArrive_block, by rw [htrace, State.idleArrive_trace], hsensor.trans s.idleArrive_sensor⟩

/-- Settles O35, from what commands (`exec_noReset`), block steps (`blockStep_noReset`, `blockStep_reset`) and the
steps that accept no word (`step_noWord`) do to the block registers. -/
theorem doneIsHeldFromCommitToAccept : Obligations.DoneIsHeldFromCommitToAccept := by
  refine ⟨fun i s t he hr => ?_, fun s t hp hc hr hst => ?_, fun s t hp hr hst => ?_, fun s t hc hr hst => ?_⟩
  · rcases exec_noReset he hr with h | ⟨-, h⟩
    · exact ⟨fun _ => h.done, fun hp => absurd h.phase hp⟩
    · exact ⟨fun hp => absurd hp h.phase, fun _ => h.done⟩
  · rw [(step_noWord hp hc hst).1, hr]
    rfl
  · obtain ⟨-, ⟨-, rfl⟩ | ⟨-, -, hblock, -⟩⟩ | ⟨hidle, -⟩ := step_cases hst
    · rcases blockStep_noReset hp hr with h | h
      · rw [if_pos h.phase, h.done]
      · rw [if_neg h.phase, h.done]
    · rw [hblock, State.arrive_block, if_neg hp]
    · exact absurd hidle hp
  · by_cases hp : s.block.phase = .idle
    · rw [(step_noWord hp hc hst).1, hr]
      rfl
    · obtain ⟨-, ⟨-, rfl⟩ | ⟨-, hr', -⟩⟩ | ⟨hidle, -⟩ := step_cases hst
      · rw [blockStep_reset hp hr]
        rfl
      · exact absurd (hr.symm.trans hr') (by decide)
      · exact absurd hidle hp

/-! ### The frame -/

theorem exec_frame {i : Instr} {s t : State} (h : exec i s = .next t) : Frame s t := by
  rcases exec_blockSteps h with ⟨e, -, rfl⟩ | ⟨-, -, n, -, rfl⟩
  · exact (Frame.accept s).trans (.raiseError e _)
  · exact ((Frame.accept s).trans (.progress i 0 [] _)).trans (blockSteps_frame n _)

/-- What the stores of a command and the sensor steps in it keep of the sensor, the command keeps. -/
theorem exec_keeps_sensor {α : Type} {f : Sensor → α} {i : Instr} {s t : State} (h : exec i s = .next t)
    (hstore : ∀ a ∈ storedRegs s.plat i, ∀ v z, f (Sensor.store s.plat a v z) = f z)
    (hsteps : ∀ j < longest, ∀ z, f (sensorSteps s.plat (s.env.slotAt j).sensor z) = f z) :
    f t.sensor = f s.sensor := by
  have haccept : f s.accept.sensor = f s.sensor := by
    rw [State.accept_sensor]
    exact hsteps 0 (by decide) _
  rcases exec_blockSteps h with ⟨e, -, rfl⟩ | ⟨-, -, n, hn, rfl⟩
  · exact haccept
  · have hbegun := blockSteps_keep_sensor (f := f) (n := n) (s := s.accept.progress i 0 []) rfl
      (by simpa using hstore) fun j hj => by
        rw [State.accept_progress_slotAt, State.progress_plat, State.accept_plat]
        exact hsteps (j + 1) (by omega)
    exact hbegun.trans haccept

/-- A command leaves a register that it does not store to and that no sensor step in it changes. -/
theorem exec_keeps_reg {i : Instr} {s t : State} {a : Byte} (h : exec i s = .next t) (ha : a ∉ storedRegs s.plat i)
    (hsteps : ∀ j < longest, ∀ z : Sensor, (sensorSteps s.plat (s.env.slotAt j).sensor z).reg a = z.reg a) :
    t.sensor.reg a = s.sensor.reg a :=
  exec_keeps_sensor (f := fun z => z.reg a) h
    (fun b hb v z => by rw [Sensor.reg_store, if_neg fun e : a = b => ha (e ▸ hb)]) hsteps

/-- R42, R132, R170: every command but RECAL stores to registers at fixed addresses only. -/
theorem storedRegs_fixed (p : Platform) {i : Instr} (hi : i ≠ .recal) : storedRegs p i ⊆ Config.fixedRegs := by
  cases i with
  | recal => exact absurd rfl hi
  | getb | setb | chks | gsens | gie | chkt | isls | isrs | gpbp | gpbt | gpbe => exact List.nil_subset _
  | bringup | ssens | siep | siea | clri | gett | ist | ispt | spbp | spbt | spbe | ispb =>
    simp [storedRegs, Config.fixedRegs]

/-- Settles O32, from `exec_frame` and, where no sensor step falls, `exec_keeps_sensor`. -/
theorem commandsLeaveEverythingElse : Obligations.CommandsLeaveEverythingElse := by
  intro i s t h
  obtain ⟨hplat, hgrain, ⟨boot, hhost⟩, hbus, hcommits⟩ := exec_frame h
  refine ⟨hplat, hgrain, by rw [hhost], by rw [hhost], by rw [hhost], by rw [hhost], by rw [hhost], by rw [hhost],
    fun hr => ?_, hbus, hcommits, fun hq => ?_⟩
  · rcases exec_noReset h hr with hc | ⟨-, hb⟩
    · exact hc.host.trans s.accept_host
    · exact hb.host.trans s.accept_host
  · have hquiet : ∀ j < longest, ∀ z, sensorSteps s.plat (s.env.slotAt j).sensor z = z := fun j hj z => by
      rw [quiet_iff.1 hq j hj]
      rfl
    refine ⟨fun a ha => exec_keeps_reg h ha fun j hj z => by rw [hquiet j hj], fun hok hi => ?_⟩
    refine exec_keeps_sensor (f := Sensor.calPending) h (fun a ha v z => ?_) fun j hj z => by rw [hquiet j hj]
    obtain ⟨-, -, -, hne⟩ := Platform.ok_fixed_ne hok (storedRegs_fixed s.plat hi ha)
    simp [Sensor.store, hne]

/-- Settles O33: no sensor step changes these registers (`sensorSteps_reg_left`). -/
theorem configurationOnlyByItsSetter : Obligations.ConfigurationOnlyByItsSetter :=
  fun _ _ _ _ h hleft ha => exec_keeps_reg h ha fun _ _ => sensorSteps_reg_left hleft _

/-- Settles O17: at this grain the command is its accept step (`exec_accepts`). -/
theorem acceptStepClearsStatus : Obligations.AcceptStepClearsStatus := by
  intro i s hp hg hr hc
  refine ⟨_, exec_accepts hp hg hc, ?_⟩
  simp [State.accept_block_noReset hr, Block.acceptClear, State.arriveN]

end Sys2Proof.Machine
end

section
/-! SUPPORT. Results: their range (R92), and that no command depends on what a former one left (R20, R61). -/

namespace Sys2Proof.Machine

open Sys2Proof Sys2Proof.Claims

/-! ### The range of a result -/

/-- Every result the pseudocode can complete with is one that `F` admits. -/
def Script.Answers (F : Byte → Prop) : Script → Prop
  | .read _ rest => ∀ b, (rest b).Answers F
  | .write _ _ rest => rest.Answers F
  | .warn _ rest => rest.Answers F
  | .result r => F r
  | .finish => True

theorem Script.Answers.clearLatch {F : Byte → Prop} {rest : Script} (h : rest.Answers F) (mode : LatchMode) :
    (Script.clearLatch mode rest).Answers F := by
  cases mode with
  | blindZero => exact h
  | rmw => exact fun _ => h

theorem answer_answers {F : Byte → Prop} {r : Byte} (h : F r) (mode : LatchMode) (positive : Bool) :
    (Script.answer mode positive r).Answers F := by
  cases positive with
  | false => exact h
  | true => exact Script.Answers.clearLatch (rest := .result r) h mode

/-- R110, R117: a field read is below 2 to its width. -/
theorem getBits_toNat_lt (b : Byte) (o w : Nat) : (getBits b o w).toNat < 2 ^ w := by
  have hmask : (mask w).toNat < 2 ^ w := by
    rw [mask, BitVec.toNat_ofNat]
    exact Nat.lt_of_le_of_lt (Nat.mod_le _ _) (Nat.sub_lt (Nat.two_pow_pos w) Nat.one_pos)
  rw [getBits, BitVec.toNat_and]
  exact Nat.lt_of_le_of_lt Nat.and_le_right hmask

/-- R116: a one-bit field is 0 or 1. -/
theorem getBits_one (b : Byte) (o : Nat) : getBits b o 1 = 0x00 ∨ getBits b o 1 = 0x01 := by
  have h := getBits_toNat_lt b o 1
  have : (getBits b o 1).toNat = 0 ∨ (getBits b o 1).toNat = 1 := by omega
  exact this.imp BitVec.eq_of_toNat_eq BitVec.eq_of_toNat_eq

theorem boolResult_cases (b : Bool) : boolResult b = 0x00 ∨ boolResult b = 0x01 := by
  cases b
  · exact .inl rfl
  · exact .inr rfl

/-- R131: CHKS's result is a union of pad sets. -/
theorem scriptChksCal_answers (p : Platform) (g : Byte) {bc : Byte} (hbc : bc.toNat < 8) :
    (scriptChksCal p g bc).Answers fun r => r.toNat < 8 := by
  unfold scriptChksCal
  split
  · intro c
    show (bc ||| getBits c 0 3).toNat < 2 ^ 3
    rw [BitVec.toNat_or]
    exact Nat.or_lt_two_pow hbc (getBits_toNat_lt c 0 3)
  · exact hbc

/-- R92: the results of each command's pseudocode; nine have none. -/
theorem scriptOf_answers (p : Platform) (i : Instr) : (scriptOf p i).Answers (ResultFits i) := by
  cases i with
  | getb a off wid => exact getBits_toNat_lt a _ _
  | setb => trivial
  | isls | isrs => rfl
  | bringup => exact fun _ _ => Script.Answers.clearLatch (rest := .finish) trivial p.latchMode
  | recal => trivial
  | clri => exact Script.Answers.clearLatch (rest := .finish) trivial p.latchMode
  | ssens | siep | siea | spbp | spbt | spbe => exact fun _ => trivial
  | gsens | gie | chkt | gpbp => exact fun b => getBits_toNat_lt b _ 3
  | gpbt => exact fun b => getBits_toNat_lt b _ 2
  | gpbe => exact fun b => getBits_one b 2
  | gett => exact fun b => answer_answers (getBits_toNat_lt b 0 3) p.latchMode _
  | ist => exact fun g => answer_answers (getBits_one g 0) p.latchMode _
  | ispb => exact fun g => answer_answers (getBits_one g 4) p.latchMode _
  | ispt => exact fun b => answer_answers (boolResult_cases _) p.latchMode _
  | chks =>
    intro g
    dsimp only
    split
    · exact fun b => scriptChksCal_answers p g (getBits_toNat_lt b 0 3)
    · exact scriptChksCal_answers p g (by decide)

/-- R22: a run that ends with a valid result ends with one its pseudocode answers. -/
theorem runScript_result {F : Byte → Prop} {scr : Script} (h : scr.Answers F) {s : State}
    (hs : s.block.resultValid = false) (hv : (runScript scr s).block.resultValid = true) :
    F (runScript scr s).block.result := by
  induction scr generalizing s with
  | read a rest ih =>
    simp only [runScript] at hv ⊢
    split_ifs at hv ⊢
    · exact nomatch hv
    · exact ih _ (h _) hs hv
    · exact nomatch hv
  | write a v rest ih =>
    simp only [runScript] at hv ⊢
    split_ifs at hv ⊢
    · exact nomatch hv
    · exact ih h hs hv
    · exact nomatch hv
  | warn w rest ih => exact ih h (by simpa using hs) hv
  | result r =>
    simp only [runScript] at hv ⊢
    split_ifs at hv ⊢
    · exact nomatch hv
    · exact h
  | finish =>
    simp only [runScript] at hv
    split_ifs at hv
    · exact nomatch hv
    · exact absurd (hs.symm.trans hv) (by decide)

/-- Settles O39: the accept step leaves no result, an error none, and the pseudocode only such as
`scriptOf_answers` says. -/
theorem resultsAreInTheirRange : Obligations.ResultsAreInTheirRange := by
  intro i s t h hv
  obtain ⟨-, ⟨e, -, rfl⟩ | ⟨-, -, rfl⟩ | ⟨-, -, rfl⟩⟩ := exec_cases h
  · exact nomatch hv
  · exact runScript_result (scriptOf_answers s.plat i) rfl hv
  · exact nomatch hv

/-! ### No caching -/

/-- `s'` is `s` but for `RESULT`, and not even there where `RESULT` is valid (R21). -/
def SameButResult (s s' : State) : Prop :=
  ∃ r, s' = { s with block := { s.block with result := r } } ∧ (s.block.resultValid = true → r = s.block.result)

/-- R277: the commit history does not show a `RESULT` that is not valid. -/
theorem SameButResult.commit {s s' : State} (h : SameButResult s s') : SameButResult s.commit s'.commit := by
  obtain ⟨r, rfl, hr⟩ := h
  refine ⟨r, ?_, hr⟩
  cases hv : s.block.resultValid with
  | false => simp [State.commit, Block.record, hv]
  | true =>
    obtain rfl := hr hv
    rfl

theorem SameButResult.raiseError {s s' : State} (h : SameButResult s s') (e : Error) :
    SameButResult (s.raiseError e) (s'.raiseError e) := by
  obtain ⟨r, rfl, -⟩ := h
  exact ⟨r, rfl, nofun⟩

theorem SameButResult.completeWith {s s' : State} (h : SameButResult s s') (r : Byte) :
    SameButResult (s.completeWith r) (s'.completeWith r) := by
  obtain ⟨_, rfl, -⟩ := h
  exact ⟨r, rfl, fun _ => rfl⟩

theorem SameButResult.abandon {s s' : State} (h : SameButResult s s') : SameButResult s.abandon s'.abandon := by
  obtain ⟨r, rfl, -⟩ := h
  exact ⟨_, rfl, fun _ => rfl⟩

theorem SameButResult.next_eq {s s' : State} (h : SameButResult s s') : s'.env.next = s.env.next := by
  obtain ⟨_, rfl, -⟩ := h
  rfl

theorem SameButResult.sensor_eq {s s' : State} (h : SameButResult s s') : s'.sensor = s.sensor := by
  obtain ⟨_, rfl, -⟩ := h
  rfl

theorem SameButResult.arrive {s s' : State} (h : SameButResult s s') : SameButResult s.arrive s'.arrive := by
  obtain ⟨r, rfl, hr⟩ := h
  exact ⟨r, rfl, hr⟩

theorem SameButResult.doneRead {s s' : State} (h : SameButResult s s') (a : Byte) :
    SameButResult (s.doneRead a) (s'.doneRead a) := by
  obtain ⟨r, rfl, hr⟩ := h
  exact ⟨r, rfl, hr⟩

theorem SameButResult.doneWrite {s s' : State} (h : SameButResult s s') (a v : Byte) :
    SameButResult (s.doneWrite a v) (s'.doneWrite a v) := by
  obtain ⟨r, rfl, hr⟩ := h
  exact ⟨r, rfl, hr⟩

theorem SameButResult.warned {s s' : State} (h : SameButResult s s') (w : Warning) :
    SameButResult (s.warned w) (s'.warned w) := by
  obtain ⟨r, rfl, hr⟩ := h
  cases w <;> exact ⟨r, rfl, hr⟩

theorem SameButResult.failRead {s s' : State} (h : SameButResult s s') (a : Byte) :
    SameButResult (s.failRead a) (s'.failRead a) := by
  obtain ⟨r, rfl, -⟩ := h
  exact ⟨r, rfl, nofun⟩

theorem SameButResult.failWrite {s s' : State} (h : SameButResult s s') (a v : Byte) (landed : Bool) :
    SameButResult (s.failWrite a v landed) (s'.failWrite a v landed) := by
  obtain ⟨r, rfl, -⟩ := h
  cases landed <;> exact ⟨r, rfl, nofun⟩

/-- R61: the pseudocode does not depend on `RESULT`, and ends with the same one where it ends with one. -/
theorem SameButResult.runScript (scr : Script) {s s' : State} (h : SameButResult s s') :
    SameButResult (runScript scr s) (runScript scr s') := by
  induction scr generalizing s s' with
  | read a rest ih =>
    simp only [Machine.runScript, h.next_eq, h.arrive.sensor_eq]
    split
    · exact h.arrive.abandon
    · split
      · exact ih _ (h.arrive.doneRead a)
      · exact h.arrive.failRead a
  | write a v rest ih =>
    simp only [Machine.runScript, h.next_eq]
    split
    · exact h.arrive.abandon
    · split
      · exact ih (h.arrive.doneWrite a v)
      · exact h.arrive.failWrite a v _
  | warn w rest ih => exact ih (h.warned w)
  | result r =>
    simp only [Machine.runScript, h.next_eq]
    split
    · exact h.arrive.abandon
    · exact h.arrive.completeWith r
  | finish =>
    simp only [Machine.runScript, h.next_eq]
    split
    · exact h.arrive.abandon
    · exact h.arrive.commit

/-- R26: the accept step clears the status registers, so that nothing but `RESULT` is left of a former command. -/
theorem SameButStatus.accept {s s' : State} (h : SameButStatus s s') : SameButResult s.accept s'.accept := by
  obtain ⟨⟨phase', result', _, _, _, _, _, _, cpc', _⟩, _, _, _, _, _⟩ := s'
  obtain ⟨rfl, rfl, rfl, rfl, rfl, hphase, hcpc⟩ := h
  obtain rfl : phase' = _ := hphase
  obtain rfl : cpc' = _ := hcpc
  refine ⟨if s.env.next.reset then 0 else result', ?_, nofun⟩
  unfold State.accept State.idleArrive
  dsimp only
  split <;> rfl

/-- What the statement says of two states that differ at most in a `RESULT` that is not valid. -/
theorem SameButResult.observed {t t' : State} (h : SameButResult t t') :
    t'.sensor = t.sensor ∧ t'.host = t.host ∧ t'.env = t.env ∧ t'.trace = t.trace ∧
      { t'.block with result := 0 } = { t.block with result := 0 } ∧
      (t.block.resultValid = true → t'.block.result = t.block.result) := by
  obtain ⟨r, rfl, hr⟩ := h
  exact ⟨rfl, rfl, rfl, rfl, rfl, hr⟩

/-- Settles O38: after their accept steps the two states differ in `RESULT` only (`SameButStatus.accept`). -/
theorem noCachingBetweenCommands : Obligations.NoCachingBetweenCommands := by
  intro i s s' t h he
  have haccept := SameButStatus.accept h
  obtain ⟨-, -, henv, hplat, -, hphase, -⟩ := h
  have hbegun : SameButResult (s.accept.progress i 0 []) (s'.accept.progress i 0 []) := by
    obtain ⟨r, heq, hr⟩ := haccept
    exact ⟨r, by rw [heq]; rfl, hr⟩
  obtain ⟨hp, ⟨e, hc, rfl⟩ | ⟨hc, hg, rfl⟩ | ⟨hc, hg, rfl⟩⟩ := exec_cases he
  · exact ⟨_, exec_refuses (hphase.trans hp) hc, (haccept.raiseError e).observed⟩
  · have hready : s'.cmdReady = true := by simp [State.cmdReady, hphase, hp]
    refine ⟨_, exec_runs hready (henv ▸ hg) hc, ?_⟩
    rw [hplat]
    exact (hbegun.runScript (scriptOf s.plat i)).observed
  · exact ⟨_, exec_accepts (hphase.trans hp) (henv ▸ hg) hc, hbegun.observed⟩

end Sys2Proof.Machine
end

section
/-! SUPPORT. The host's turns: the word on `cmd` and the moves on the ports (R21, R26, R29, R45, R265, R267). -/

namespace Sys2Proof.Machine

open Sys2Proof Sys2Proof.Claims

/-! ### The word on `cmd` -/

theorem cmd_of_idle {s : State} (hp : s.block.phase = .idle) : s.cmd = s.host.word := by
  simp [State.cmd, State.cmdReady, hp]

theorem cmd_of_busy {s : State} (hp : s.block.phase ≠ .idle) : s.cmd = none := by
  cases h : s.block.phase with
  | idle => exact absurd h hp
  | busy op k locals => simp [State.cmd, State.cmdReady, h]

theorem step_idle {s : State} (hp : s.block.phase = .idle) : step s = idleTurn s := by simp [step, hp]

theorem step_busy {s : State} (hp : s.block.phase ≠ .idle) : step s = busyTurn s := by
  cases h : s.block.phase with
  | idle => exact absurd h hp
  | busy op k locals => simp [step, h]

/-- With no connect in progress the host has its next move's word ready (R267). -/
theorem HostAgent.word_settled {h : HostAgent} (hb : Settled h.boot) : h.word = h.moves.head?.bind HostMove.word := by
  rcases hb with hb | hb | ⟨c, e, hb⟩ <;> simp [HostAgent.word, hb]

theorem taken_settled {s : State} (hb : Settled s.host.boot) : taken s = s.popMove := by
  unfold taken
  split
  · rename_i hi
    simp [Settled, hi] at hb
  · rfl

/-- A connect is in progress, or none is (R262 to R265). -/
theorem Boot.settled_or_connecting (b : Boot) : Settled b ∨ (∃ made, b = .probing made) ∨ b = .issue ∨ b = .await := by
  cases b <;> simp [Settled]

/-- R26, R265, R267: where `cmd` shows a word, the block is IDLE and the step accepts that word. -/
theorem step_cmd {s : State} {w : CmdWord} (hc : s.cmd = some w) :
    s.block.phase = .idle ∧ step s = acceptWord w (taken s) := by
  have hp : s.block.phase = .idle := by
    by_contra hp
    simp [cmd_of_busy hp] at hc
  rw [cmd_of_idle hp] at hc
  refine ⟨hp, ?_⟩
  rw [step_idle hp]
  rcases s.host.boot.settled_or_connecting with hb | ⟨made, hb⟩ | hb | hb
  · rw [HostAgent.word_settled hb] at hc
    rw [idleTurn_settled hb, taken_settled hb, hostTurn]
    match hm : s.host.moves with
    | [] => simp [hm] at hc
    | .present w' :: rest =>
      obtain rfl : w' = w := by simpa [hm, HostMove.word] using hc
      rfl
    | .connect addr tr :: rest => simp [hm, HostMove.word] at hc
    | .readPort p :: rest => simp [hm, HostMove.word] at hc
    | .driveCodec b v o wid :: rest => simp [hm, HostMove.word] at hc
  · simp [HostAgent.word, hb] at hc
  · obtain rfl : bringupWord = w := by simpa [HostAgent.word, hb] using hc
    simp only [idleTurn, taken, hb]
    rfl
  · simp [HostAgent.word, hb] at hc

theorem acceptWord_ok {w : CmdWord} {i : Instr} (h : decode w = .ok i) (s : State) : acceptWord w s = exec i s := by
  simp [acceptWord, h]

theorem acceptWord_illegal {w : CmdWord} (h : illegal w = true) (s : State) :
    acceptWord w s = .next (s.accept.raiseError (.illegalCommand w)) := by
  unfold illegal at h
  unfold acceptWord
  split at h
  · exact nomatch h
  · simp_all [acceptIllegal]

/-- Settles O14: a word shown is the word accepted (`step_cmd`), and a step with none leaves the block registers
(`step_noWord`). -/
theorem cmdPortShowsTheWordTaken : Obligations.CmdPortShowsTheWordTaken := by
  refine ⟨fun s w hc => ?_, fun s t hp hc hst => ?_, fun s hp hb => ?_, fun s hb => ?_, fun s m rest hp hb hm => ?_,
    fun s hp => cmd_of_busy hp⟩
  · obtain ⟨hp, hstep⟩ := step_cmd hc
    exact ⟨by simp [State.cmdValid, hc], hp, fun i hd => hstep.trans (acceptWord_ok hd _),
      fun hi => hstep.trans (acceptWord_illegal hi _)⟩
  · exact ⟨by simp [State.cmdValid, hc], step_noWord hp hc hst⟩
  · have hword : bringupWord = 0x10000000 := by decide
    simp [cmd_of_idle hp, HostAgent.word, hb, hword]
  · by_cases hp : s.block.phase = .idle
    · rw [cmd_of_idle hp]
      rcases hb with hb | ⟨made, hb⟩ <;> simp [HostAgent.word, hb]
    · exact cmd_of_busy hp
  · rw [cmd_of_idle hp, HostAgent.word_settled hb, hm]
    cases m <;> rfl

/-- Settles O13: the host's word is the one `cmd` shows (`step_cmd`); the BUSY step is `busyTurn`. -/
theorem stepRunsThePresentedCommand : Obligations.StepRunsThePresentedCommand := by
  refine ⟨fun s w rest i hp hb hm hd => ?_, fun s hp ha => ?_⟩
  · have hc : s.cmd = some w := by
      rw [cmd_of_idle hp, HostAgent.word_settled hb, hm]
      rfl
    rw [(step_cmd hc).2, acceptWord_ok hd, taken_settled hb, State.popMove, hm]
    rfl
  · simp [step_busy hp, busyTurn, ha]

/-! ### The ports -/

/-- The statement's words for what a host step finds are the model's `State.idleArrive`. -/
theorem found_eq (s : State) : found s = s.idleArrive := rfl

/-- R113: the codec ports hold a value exactly where the field lies in the byte. -/
theorem State.cbRangeOk_eq (s : State) : s.cbRangeOk = decide (s.host.cbOff.toNat + s.host.cbWid.toNat ≤ 8) := rfl

/-- R29's table of the output ports, row by row, is the model's. -/
theorem portShows_eq (s : State) (p : OutPort) : portShows s p = s.portValue p := by
  cases p with
  | cmdReady => simp only [portShows, State.portValue, State.cmdReady]; cases s.block.phase <;> simp
  | result => simp only [portShows, State.portValue, State.resultPort]; split <;> rfl
  | cbGet => simp only [portShows, State.portValue, State.cbGet, State.cbRangeOk_eq, decide_eq_true_eq]; split <;> rfl
  | cbSet => simp only [portShows, State.portValue, State.cbSet, State.cbRangeOk_eq, decide_eq_true_eq]; split <;> rfl
  | done | resultValid | err | errInfo | warn | bcPads | calPads | cpc | cbRangeOk => rfl

/-- A move on the ports is made where the host has the turn, in IDLE and in BUSY (R29, log entry 12). -/
theorem step_portTurn {s : State} {m : HostMove} {rest : List HostMove} (ht : PortTurn s) (hm : s.host.moves = m :: rest)
    (hport : m.onPorts = true) : step s = hostMove m s.popMove := by
  obtain ⟨hb, hturn⟩ := ht
  have hmove : hostTurn s = hostMove m s.popMove := by rw [hostTurn, hm]
  by_cases hp : s.block.phase = .idle
  · rw [step_idle hp, idleTurn_settled hb, hmove]
  · obtain ⟨hhost, hreset⟩ := hturn.resolve_left hp
    have hconnect : s.host.boot.connecting = false := by
      rcases hb with hb | hb | ⟨c, e, hb⟩ <;> rw [hb] <;> rfl
    have hacts : s.hostActs = true := by simp [State.hostActs, hhost, hreset, hconnect, hm, hport]
    rw [step_busy hp, busyTurn, if_pos hacts, hmove]

/-- A port's value does not depend on the moves the host has yet to make. -/
theorem State.popMove_portValue (s : State) (p : OutPort) : s.popMove.portValue p = portShows s p := by
  rw [portShows_eq]
  cases p <;> rfl

/-- What a host step finds, the move it makes taken off the host's list. -/
theorem found_popMove {s : State} {m : HostMove} {rest : List HostMove} (hm : s.host.moves = m :: rest) :
    (found s).popMove = { found s with host := { s.host with moves := rest } } := by
  rw [State.popMove, found_eq, State.idleArrive_host, hm]
  rfl

/-- R29: the host reads a port in the state that its step finds. -/
theorem step_readPort {s : State} {p : OutPort} {rest : List HostMove} (ht : PortTurn s)
    (hm : s.host.moves = .readPort p :: rest) : step s = readPort p (found s).popMove := by
  rw [step_portTurn ht hm rfl, hostMove, State.popMove_idleArrive, found_eq]

theorem readPort_fault {s : State} {p : OutPort} {e : Fault} (h : portShows s p = .error e) :
    readPort p s.popMove = .fault e := by
  rw [readPort, State.popMove_portValue, h]

/-- Settles O50: the host has the turn (`step_portTurn`), and the ports hold what R29's table says (`portShows_eq`). -/
theorem hostReadsEveryPort : Obligations.HostReadsEveryPort := by
  refine fun s rest ht => ⟨fun p hm => ⟨fun v hv => ?_, fun e he => ?_⟩, fun b v o w hm => ?_⟩
  · rw [step_readPort ht hm, readPort, State.popMove_portValue, hv, found_popMove hm]
    rfl
  · rw [step_readPort ht hm, readPort_fault he]
  · rw [step_portTurn ht hm rfl, hostMove, State.popMove_idleArrive, ← found_eq, found_popMove hm]
    rfl

/-- Settles O48: the record `Block.reset` holds R45's values, and its `RESULT` port holds none (`step_readPort`). -/
theorem blockResetValues : Obligations.BlockResetValues := by
  refine ⟨⟨rfl, rfl, rfl, rfl, rfl, rfl, rfl, rfl⟩, rfl, fun s rest hblock hb hm => ?_⟩
  have hvalid : (found s).block.resultValid = false := by
    rw [found_eq, State.idleArrive_block, hblock]
    split <;> rfl
  have hidle : s.block.phase = .idle := by rw [hblock]; rfl
  rw [step_readPort ⟨hb, .inl hidle⟩ hm]
  exact readPort_fault (by simp [portShows, hvalid])

end Sys2Proof.Machine
end

section
/-! SUPPORT. What a sensor step does to the latch and to the status registers, and what any number of them leave (R64,
R65, R67). -/

namespace Sys2Proof.Machine

open Sys2Proof Sys2Proof.Claims

/-! ### The latch -/

/-- R65 in the block's own terms: the latch is set by an enabled pad's being pressed, by the draw, or was set. -/
theorem sensorStep_latch {p : Platform} (h : p.ok = true) (d : SensorDraw) (z : Sensor) :
    (sensorStep p d z).latch = (z.latch || pressed p z (Sensor.redrawAll p d z) || d.latch) := by
  unfold Sensor.latch
  rw [sensorStep_main h, Bool.or_assoc]
  cases pressed p z (Sensor.redrawAll p d z) || d.latch <;> simp

/-- R66: no sensor steps clear the latch. -/
theorem sensorSteps_keep_latch_set {p : Platform} (h : p.ok = true) (ds : List SensorDraw) {z : Sensor}
    (hz : z.latch = true) : (sensorSteps p ds z).latch = true := by
  induction ds generalizing z with
  | nil => exact hz
  | cons d ds ih => exact ih (by rw [sensorStep_latch h, hz]; rfl)

/-- R33, R35: the three pad bits of a byte, as a byte. -/
theorem getBits_eq_zext8_padsOf (b : Byte) : getBits b 0 3 = zext8 (padsOf b) := by
  ext i hi
  simp [← BitVec.getLsbD_eq_getElem, getBits_getLsbD, zext8, padsOf, hi]

/-- R65, `e`, on the pad bits of the bytes read. -/
theorem pressed_eq_getBits (p : Platform) (z z' : Sensor) :
    pressed p z z' =
      ((getBits (z'.reg p.regTouchStatus) 0 3 &&& ~~~(getBits (z.reg p.regTouchStatus) 0 3)
        &&& getBits (z.reg 0x27) 0 3) != 0) := by
  have pads : ∀ x y w : PadSet, ((x &&& ~~~y &&& w) != 0) = ((zext8 x &&& ~~~(zext8 y) &&& zext8 w) != 0) := by decide
  simp only [getBits_eq_zext8_padsOf]
  exact pads _ _ _

/-! ### The registers -/

/-- Main control apart, a sensor step leaves the registers as the draws make them (R64). -/
theorem sensorStep_reg_drawn (p : Platform) (d : SensorDraw) (z : Sensor) {a : Byte} (h : a ≠ Config.regMainControl) :
    (sensorStep p d z).reg a = (Sensor.redrawAll p d z).reg a := Sensor.setLatch_reg_other _ _ h

theorem sensorStep_touchStatus {p : Platform} (h : p.ok = true) (d : SensorDraw) (z : Sensor) :
    (sensorStep p d z).reg p.regTouchStatus = (Sensor.redrawAll p d z).reg p.regTouchStatus :=
  have hne := Platform.ok_fixed_ne h (a := Config.regMainControl) (by decide)
  sensorStep_reg_drawn p d z hne.1.symm

/-- R67: bits 7 to 1 of main control are configuration. -/
theorem sensorSteps_main_high {p : Platform} (h : p.ok = true) (ds : List SensorDraw) (z : Sensor) :
    (sensorSteps p ds z).reg Config.regMainControl &&& 0xFE = z.reg Config.regMainControl &&& 0xFE := by
  have orBit0 : ∀ b : Byte, (b ||| 0x01) &&& 0xFE = b &&& 0xFE := by decide
  induction ds generalizing z with
  | nil => rfl
  | cons d ds ih =>
    refine (ih _).trans ?_
    rw [sensorStep_main h]
    split
    · exact orBit0 _
    · rfl

/-- R8: the OPEN status registers differ from one another, but for calibration status and calibration activate. -/
theorem Platform.ok_open_ne {p : Platform} (h : p.ok = true) :
    p.regTouchStatus ≠ p.regBcOut ∧ p.regTouchStatus ≠ p.regCalStatus ∧ p.regTouchStatus ≠ p.regCalActivate ∧
      p.regBcOut ≠ p.regCalStatus ∧ p.regBcOut ≠ p.regCalActivate := by
  simp only [Platform.ok, Bool.and_eq_true, bne_iff_ne] at h
  tauto

/-- The draw of these five bytes and of `s` (R64, R65). -/
def drawOf (g t b c a : Byte) (l : Bool) : SensorDraw :=
  { generalStatus := some g, touchStatus := some t, bcOut := some b, calStatus := some c, calActivate := some a
    latch := l, calDone := false }

/-- The draws are made in order, so a register that two of them name holds the later one. -/
theorem sensorStep_drawOf_reg (p : Platform) (z : Sensor) (g t b c a : Byte) (l : Bool) {r : Byte}
    (h : r ≠ Config.regMainControl) :
    (sensorStep p (drawOf g t b c a l) z).reg r =
      if r = p.regCalActivate then a else if r = p.regCalStatus then c else if r = p.regBcOut then b
      else if r = p.regTouchStatus then t else if r = Config.regGeneralStatus then g else z.reg r := by
  rw [sensorStep_reg_drawn p _ z h]
  simp only [Sensor.redrawAll, drawOf, Sensor.redraw, Sensor.reg_setReg]

/-! ### The statements -/

/-- Settles O45: R65 as the model computes it (`sensorStep_latch`), on the bytes read (`pressed_eq_getBits`). -/
theorem sensorStepSetsTheLatch : Obligations.SensorStepSetsTheLatch := by
  intro p d z h
  rw [sensorStep_latch h, pressed_eq_getBits, sensorStep_touchStatus h]

/-- Settles O46: the four registers are none that a sensor step changes, and main control changes in bit 0 only
(`sensorSteps_main_high`). -/
theorem sensorLeavesConfiguration : Obligations.SensorLeavesConfiguration := by
  refine fun p ds z h => ⟨fun a ha => sensorSteps_reg_left ?_ ds z, sensorSteps_main_high h ds z⟩
  have config : ∀ a ∈ [(0x1F : Byte), 0x27, 0x60, 0x61],
      a ∈ Config.fixedRegs ∧ a ≠ Config.regMainControl ∧ a ≠ Config.regGeneralStatus := by decide
  obtain ⟨hfixed, hmain, hgeneral⟩ := config a ha
  exact Platform.ok_config_left h hfixed hmain hgeneral

/-- Settles O47: the step that draws exactly these bytes, which R8 keeps apart in the registers. -/
theorem sensorMayDrawAnyStatus : Obligations.SensorMayDrawAnyStatus := by
  intro p z g t b c a l h hsame
  obtain ⟨htb, htc, hta, hbc, hba⟩ := Platform.ok_open_ne h
  obtain ⟨hgt, hgb, hgc, hga⟩ := Platform.ok_fixed_ne h (a := Config.regGeneralStatus) (by decide)
  obtain ⟨hmt, hmb, hmc, hma⟩ := Platform.ok_fixed_ne h (a := Config.regMainControl) (by decide)
  have htouch : (sensorStep p (drawOf g t b c a l) z).reg p.regTouchStatus = t := by
    simp [sensorStep_drawOf_reg, hmt.symm, htb, htc, hta]
  refine ⟨drawOf g t b c a l, ?_, htouch, ?_, ?_, ?_, ?_⟩
  · show (sensorStep p (drawOf g t b c a l) z).reg Config.regGeneralStatus = g
    rw [sensorStep_drawOf_reg p z g t b c a l (by decide)]
    simp only [hgt, hgb, hgc, hga, if_false, if_true]
  · simp [sensorStep_drawOf_reg, hmb.symm, hbc, hba]
  · rw [sensorStep_drawOf_reg p z g t b c a l hmc.symm, if_pos rfl]
    split
    · rename_i heq
      exact (hsame heq).symm
    · rfl
  · rw [sensorStep_drawOf_reg p z g t b c a l hma.symm, if_pos rfl]
  · rw [sensorStepSetsTheLatch p _ z h, htouch]
    rfl

end Sys2Proof.Machine
end

section
/-! SUPPORT. What steps add to the bus history, and what of it may have cleared the latch (R50, R51, R55, R60, R66,
R68). -/

namespace Sys2Proof.Machine

open Sys2Proof Sys2Proof.Claims

/-- R60: a store clears the latch only by a byte with bit 0 = 0 in main control. -/
theorem Sensor.latch_store (p : Platform) (a v : Byte) (z : Sensor) :
    (z.store p a v).latch = if a = Config.regMainControl then v.getLsbD 0 else z.latch := by
  unfold Sensor.latch
  rw [Sensor.reg_store]
  by_cases ha : a = Config.regMainControl
  · rw [if_pos ha, if_pos ha.symm]
  · rw [if_neg ha, if_neg (Ne.symm ha)]

/-! ### From one state to a later one -/

/-- From `s` to `t` the bus history has grown by allowed transactions only, and where the latch was cleared, one of
them is a write that clears it. -/
structure IssuesLegally (s t : State) : Prop where
  plat : t.plat = s.plat
  bus : ∃ new, t.trace.bus = new ++ s.trace.bus ∧ (∀ e ∈ new, legalEvent s.plat e = true) ∧
    (s.plat.ok = true → s.sensor.latch = true → t.sensor.latch = false → ∃ e ∈ new, clearsLatch e = true)

theorem IssuesLegally.trans {s u t : State} (h : IssuesLegally s u) (h' : IssuesLegally u t) : IssuesLegally s t := by
  obtain ⟨hplat, new, hbus, hlegal, hclear⟩ := h
  obtain ⟨hplat', new', hbus', hlegal', hclear'⟩ := h'
  rw [hplat] at hlegal' hclear'
  refine ⟨hplat'.trans hplat, new' ++ new, by rw [hbus', hbus, List.append_assoc], fun e he => ?_, fun hok hs ht => ?_⟩
  · exact (List.mem_append.1 he).elim (hlegal' e) (hlegal e)
  · cases hu : u.sensor.latch with
    | true =>
      obtain ⟨e, he, hc⟩ := hclear' hok hu ht
      exact ⟨e, List.mem_append_left _ he, hc⟩
    | false =>
      obtain ⟨e, he, hc⟩ := hclear hok hs hu
      exact ⟨e, List.mem_append_right _ he, hc⟩

/-- Without a transaction, and with the latch kept. -/
theorem IssuesLegally.of_none {s t : State} (hplat : t.plat = s.plat) (hbus : t.trace.bus = s.trace.bus)
    (hlatch : s.plat.ok = true → s.sensor.latch = true → t.sensor.latch = true) : IssuesLegally s t :=
  ⟨hplat, [], hbus, nofun, fun hok hs ht => nomatch (hlatch hok hs).symm.trans ht⟩

theorem IssuesLegally.refl (s : State) : IssuesLegally s s := .of_none rfl rfl fun _ h => h

/-- One allowed transaction, which may have cleared the latch if it is a write that clears it. -/
theorem IssuesLegally.of_one {s t : State} {e : BusEvent} (hplat : t.plat = s.plat)
    (hbus : t.trace.bus = e :: s.trace.bus) (hlegal : legalEvent s.plat e = true)
    (hlatch : s.sensor.latch = true → t.sensor.latch = false → clearsLatch e = true) : IssuesLegally s t :=
  ⟨hplat, [e], hbus, fun e' he => List.mem_singleton.1 he ▸ hlegal, fun _ hs ht => ⟨e, by simp, hlatch hs ht⟩⟩

/-- Only the bus history, the sensor and the parameters matter. -/
theorem IssuesLegally.congr {s u t : State} (h : IssuesLegally s u) (hplat : t.plat = u.plat)
    (hbus : t.trace.bus = u.trace.bus) (hsensor : t.sensor = u.sensor) : IssuesLegally s t :=
  ⟨hplat.trans h.plat, by rw [hbus, hsensor]; exact h.bus⟩

/-! ### The operations of the machine -/

/-- R66: the sensor steps before a step clear no latch. -/
theorem IssuesLegally.arrive {s u : State} (h : IssuesLegally s u) : IssuesLegally s u.arrive :=
  h.trans (.of_none rfl rfl fun hok hu => sensorSteps_keep_latch_set hok _ hu)

theorem IssuesLegally.idleArrive {s u : State} (h : IssuesLegally s u) : IssuesLegally s u.idleArrive :=
  h.arrive.congr (by simp) (by simp) u.idleArrive_sensor

theorem IssuesLegally.logRead {s u : State} (h : IssuesLegally s u) {a : Byte} (ha : mayRead s.plat a = true)
    (data : Option Byte) : IssuesLegally s (u.logRead a data) :=
  h.trans (.of_one (e := .read Config.devAddr a data) rfl rfl (by simp [legalEvent, h.plat, ha])
    fun hu ht => nomatch hu.symm.trans ht)

/-- R55, R60: a write, whether or not it succeeded, and whether or not its byte reached the sensor. -/
theorem IssuesLegally.logWrite {s u : State} (h : IssuesLegally s u) {a v : Byte} (ha : mayWrite s.plat a v = true)
    (landed ok : Bool) : IssuesLegally s ((if landed then u.storeReg a v else u).logWrite a v ok) := by
  refine h.trans (.of_one (e := .write Config.devAddr a v ok) ?_ ?_ (by simp [legalEvent, h.plat, ha]) fun hu ht => ?_)
  · cases landed <;> rfl
  · cases landed <;> rfl
  · cases landed with
    | false => exact nomatch hu.symm.trans ht
    | true =>
      replace ht : (u.sensor.store u.plat a v).latch = false := ht
      rw [Sensor.latch_store] at ht
      split at ht
      · rename_i hmain
        rw [clearsLatch, hmain, ht]
        rfl
      · exact nomatch hu.symm.trans ht

theorem IssuesLegally.of_hostOnly {s u t : State} (h : IssuesLegally s u) (ht : HostOnly u t) : IssuesLegally s t := by
  obtain ⟨-, hsensor, -, hplat, htrace⟩ := ht
  exact h.congr hplat (congrArg Trace.bus htrace) hsensor

/-- R50, R264: a probe is addressed to the one device, and clears nothing. -/
theorem probeStep_issuesLegally (made : Nat) (s : State) : IssuesLegally s (probeStep made s) :=
  (IssuesLegally.refl s).idleArrive.trans
    (.of_one (e := .probe Config.devAddr (writeOk s.env.next.reply)) rfl rfl (by simp [legalEvent])
      fun hu ht => nomatch hu.symm.trans ht)

/-- A block step issues only the transactions that the command's pseudocode holds (`scriptOf_allows`). -/
theorem blockStep_issuesLegally (s : State) : IssuesLegally s (blockStep s) := by
  cases hp : s.block.phase with
  | idle =>
    rw [blockStep_idle hp]
    exact .refl s
  | busy op k locals =>
    rw [blockStep_busy hp]
    exact scriptStep_induction (P := IssuesLegally s) (Q := IssuesLegally s)
      (hread := fun a _ ha hu _ _ => (hu.arrive.logRead ha _).congr rfl rfl rfl)
      (hwrite := fun a v _ ha hu _ _ => (hu.arrive.logWrite ha true true).congr rfl rfl rfl)
      (hwarn := fun w _ hu => hu.congr rfl rfl rfl)
      (hreset := fun _ hu _ => hu.arrive.congr rfl rfl rfl)
      (hfailRead := fun a _ ha hu _ _ => (hu.arrive.logRead ha none).congr rfl rfl rfl)
      (hfailWrite := fun a v _ ha hu _ _ => (hu.arrive.logWrite ha _ false).congr rfl rfl rfl)
      (hresult := fun r _ hu _ => hu.arrive.congr rfl rfl rfl)
      (hfinish := fun _ hu _ => hu.arrive.congr rfl rfl rfl)
      _ ((scriptOf_allows s.plat op).resume k locals) s (.refl s)

theorem blockSteps_issuesLegally (n : Nat) (s : State) : IssuesLegally s (blockSteps n s) :=
  blockSteps_induction (P := IssuesLegally s) (B := fun _ => True)
    (fun u _ _ _ _ hu _ => hu.trans (blockStep_issuesLegally u)) (fun _ _ => trivial) (.refl s)

/-- R26: the accept step issues no transaction. -/
theorem accept_issuesLegally (s : State) : IssuesLegally s s.accept :=
  (IssuesLegally.refl s).idleArrive.congr rfl rfl rfl

theorem exec_issuesLegally {i : Instr} {s t : State} (h : exec i s = .next t) : IssuesLegally s t := by
  rcases exec_blockSteps h with ⟨e, -, rfl⟩ | ⟨-, -, n, -, rfl⟩
  · exact (accept_issuesLegally s).congr rfl rfl rfl
  · have hbegun : IssuesLegally s (s.accept.progress i 0 []) := (accept_issuesLegally s).congr rfl rfl rfl
    exact hbegun.trans (blockSteps_issuesLegally n _)

/-- Every way a step answers a next state issues only allowed transactions, and clears the latch only by one of them. -/
theorem step_issuesLegally {s t : State} (hst : step s = .next t) : IssuesLegally s t := by
  have start {u : State} (hu : HostOnly s u) : IssuesLegally s u := (IssuesLegally.refl s).of_hostOnly hu
  obtain ⟨-, ⟨-, rfl⟩ | ⟨-, -, ht⟩⟩ | ⟨-, ⟨w, i, u, -, -, hu, he⟩ | ⟨w, u, -, -, hu, rfl⟩ |
    ⟨-, ⟨made, -, rfl⟩ | ht⟩⟩ := step_cases hst
  · exact blockStep_issuesLegally s
  · exact (IssuesLegally.refl s).arrive.of_hostOnly ht
  · exact (start hu).trans (exec_issuesLegally he)
  · exact (start hu).trans ((accept_issuesLegally u).congr rfl rfl rfl)
  · exact probeStep_issuesLegally made s
  · exact (IssuesLegally.refl s).idleArrive.of_hostOnly ht

/-! ### The statements -/

/-- Settles O43: an event of the later history is a new one, allowed by `step_issuesLegally`, or an old one. -/
theorem busHistoryStaysLegal : Obligations.BusHistoryStaysLegal := by
  intro s t hs hst e he
  obtain ⟨hplat, new, hbus, hlegal, -⟩ := step_issuesLegally hst
  rw [hplat]
  rw [hbus] at he
  exact (List.mem_append.1 he).elim (hlegal e) (hs e)

/-- Settles O44: the write that cleared the latch is among the step's transactions (`step_issuesLegally`). -/
theorem latchClearedOnlyByAWrite : Obligations.LatchClearedOnlyByAWrite := by
  intro s t hok hst hs ht
  obtain ⟨-, new, hbus, -, hclear⟩ := step_issuesLegally hst
  exact ⟨new, hbus, hclear hok hs ht⟩

end Sys2Proof.Machine
end

section
/-! SUPPORT. The decoder row by row of R82's table, and the statements about words (R80 to R84, R95). -/

namespace Sys2Proof

open Sys2Proof.Machine Sys2Proof.Claims

/-! ### The legal bytes `B`, and the operand each holds -/

/-- A byte below `2 ^ n` is the zero extension of its low `n` bits, and of no other value. -/
theorem extractLsb'_eq_iff {n : Nat} (hn : n ≤ 8) (b : Byte) (x : BitVec n) :
    b.toNat < 2 ^ n ∧ b.extractLsb' 0 n = x ↔ b = x.setWidth 8 := by
  constructor
  · rintro ⟨hb, rfl⟩
    apply BitVec.eq_of_toNat_eq
    simp [Nat.mod_eq_of_lt hb, Nat.mod_eq_of_lt b.isLt]
  · rintro rfl
    have hmod : x.toNat % 2 ^ 8 = x.toNat :=
      Nat.mod_eq_of_lt (x.isLt.trans_le (Nat.pow_le_pow_right (by decide) hn))
    refine ⟨by simpa only [BitVec.toNat_setWidth, hmod] using x.isLt, BitVec.eq_of_toNat_eq ?_⟩
    simp only [BitVec.extractLsb'_toNat, BitVec.toNat_setWidth, hmod, Nat.shiftRight_zero, Nat.mod_eq_of_lt x.isLt]

/-- R85, R88: a level code or a pad set. -/
theorem low3_iff {b : Byte} {x : BitVec 3} : decide (b ≤ 0x07) = true ∧ low3 b = x ↔ b = x.setWidth 8 := by
  rw [← extractLsb'_eq_iff (by decide), decide_eq_true_iff, BitVec.le_def]
  exact and_congr_left fun _ => Nat.lt_succ_iff.symm

/-- R89: a time code. -/
theorem low2_iff {b : Byte} {x : BitVec 2} :
    decide (b ≤ 0x03) = true ∧ b.extractLsb' 0 2 = x ↔ b = x.setWidth 8 := by
  rw [← extractLsb'_eq_iff (by decide), decide_eq_true_iff, BitVec.le_def]
  exact and_congr_left fun _ => Nat.lt_succ_iff.symm

/-- R90: a boolean. -/
theorem boolLegal_iff {b : Byte} {x : Bool} : boolLegal b = true ∧ (b == 0x01) = x ↔ b = boolByte x := by
  cases x with
  | false =>
    simp only [boolLegal, boolByte, Bool.or_eq_true, beq_iff_eq, beq_eq_false_iff_ne]
    exact ⟨fun ⟨h, hne⟩ => h.resolve_right hne, by rintro rfl; decide⟩
  | true =>
    simp only [boolLegal, boolByte, Bool.or_eq_true, beq_iff_eq]
    exact ⟨And.right, fun h => ⟨.inr h, h⟩⟩

/-- R87: a pad selector. -/
theorem oneHot_iff {b : Byte} {x : PadSet} :
    (b == 0x01 || b == 0x02 || b == 0x04) = true ∧ low3 b = x ↔ x.oneHot = true ∧ b = x.setWidth 8 := by
  have hlegal : (b == 0x01 || b == 0x02 || b == 0x04) = (decide (b ≤ 0x07) && PadSet.oneHot (low3 b)) := by
    revert b; decide
  rw [hlegal, Bool.and_eq_true, ← low3_iff]
  constructor
  · rintro ⟨⟨hb, hx⟩, rfl⟩
    exact ⟨hx, hb, rfl⟩
  · rintro ⟨hx, hb, rfl⟩
    exact ⟨⟨hb, hx⟩, rfl⟩

theorem le_seven_iff_mem {b : Byte} :
    decide (b ≤ 0x07) = true ↔ b ∈ [0x00#8, 0x01, 0x02, 0x03, 0x04, 0x05, 0x06, 0x07] := by
  revert b; decide

theorem le_three_iff_mem {b : Byte} : decide (b ≤ 0x03) = true ↔ b ∈ [0x00#8, 0x01, 0x02, 0x03] := by
  revert b; decide

theorem boolLegal_iff_mem {b : Byte} : boolLegal b = true ↔ b ∈ [0x00#8, 0x01] := by simp [boolLegal]

theorem padSelector_iff_mem {b : Byte} : (b == 0x01 || b == 0x02 || b == 0x04) = true ↔ b ∈ [0x01#8, 0x02, 0x04] := by
  simp [or_assoc]

/-! ### The word of a command, decoded -/

/-- The fields of a typed command: all but the opcode and `B` are 0 (R82). -/
theorem eq_typedFields_iff (f : Fields) (b : Byte) :
    f = typedFields f.opc b ↔ f.a = 0 ∧ f.b = b ∧ f.off = 0 ∧ f.wid = 0 ∧ f.rsv = 0 := by
  cases f
  simp [typedFields]

/-- A typed command whose `B` is legal is decoded with the operand that `B` holds (R82). -/
theorem decodeTyped_operand {α : Type} (mk : α → Instr) (opc b : Byte) {legal : Bool} {v x : α}
    (h : legal = true ∧ v = x) : decodeTyped (typedFields opc b) legal (mk v) = .ok (mk x) :=
  (decodeTyped_ok _ _ _ _).2 ⟨h.1, congrArg mk h.2, rfl⟩

theorem decodeFields_encodeFields {i : Instr} (hi : i.wellFormed = true) : decodeFields (encodeFields i) = .ok i := by
  cases i with
  | ssens level => exact decodeTyped_operand .ssens 0x20 (level.setWidth 8) (low3_iff.2 rfl)
  | siep pads => exact decodeTyped_operand .siep 0x22 (pads.setWidth 8) (low3_iff.2 rfl)
  | siea on => exact decodeTyped_operand .siea 0x23 (boolByte on) (boolLegal_iff.2 rfl)
  | ispt pad => exact decodeTyped_operand .ispt 0x34 (pad.setWidth 8) (oneHot_iff.2 ⟨hi, rfl⟩)
  | spbp pads => exact decodeTyped_operand .spbp 0x40 (pads.setWidth 8) (low3_iff.2 rfl)
  | spbt time => exact decodeTyped_operand .spbt 0x42 (time.setWidth 8) (low2_iff.2 rfl)
  | spbe on => exact decodeTyped_operand .spbe 0x44 (boolByte on) (boolLegal_iff.2 rfl)
  | _ => rfl

theorem decode_encode {i : Instr} (hi : i.wellFormed = true) : decode (encode i) = .ok i := by
  rw [encode, decode_pack, decodeFields_encodeFields hi]

/-- Settles O5: the fields of a packed word are the fields packed (`decode_pack`), and a command's fields decode to
it, constructor by constructor (`decodeFields_encodeFields`). -/
theorem decodeInvertsEncode : Obligations.DecodeInvertsEncode := fun _ => decode_encode

/-! ### The decoder, row by row of R82 -/

/-- What the decoder answers on fields `f`, by the kind of the opcode's row in R82's table; a command that it can
answer is well formed and has these fields. -/
inductive DecodesByRow (f : Fields) : Option TableRow → Except DecodeError Instr → Prop
  | getb (hopc : f.opc = 0x01) : DecodesByRow f (some ⟨false, true, false, [0x00]⟩) (decodeGetb f)
  | setb (hopc : f.opc = 0x02) : DecodesByRow f (some ⟨false, false, false, []⟩) (decodeSetb f)
  | plain {i : Instr} (hopc : f.opc = opcodeOf i) (hi : i.wellFormed = true)
      (henc : encodeFields i = typedFields (opcodeOf i) 0) :
      DecodesByRow f (some ⟨true, true, true, [0x00]⟩) (decodePlain f i)
  | typed {b₀ : Byte} {bs : List Byte} {legal : Bool} {i : Instr} {b : Byte} (hopc : f.opc = opcodeOf i)
      (henc : encodeFields i = typedFields (opcodeOf i) b) (hlegal : legal = true ↔ f.b ∈ b₀ :: bs)
      (hi : legal = true → i.wellFormed = true ∧ f.b = b) :
      DecodesByRow f (some ⟨true, false, true, b₀ :: bs⟩) (decodeTyped f legal i)
  | unassigned : DecodesByRow f none (.error .unassignedOpcode)

/-- The decoder's match, opcode by opcode. -/
theorem decodeFields_byRow (f : Fields) : DecodesByRow f (tableRow f.opc) (decodeFields f) := by
  unfold decodeFields
  split
  next hopc => rw [hopc]; exact .getb hopc
  next hopc => rw [hopc]; exact .setb hopc
  next hopc => rw [hopc]; exact .plain hopc rfl rfl
  next hopc => rw [hopc]; exact .plain hopc rfl rfl
  next hopc => rw [hopc]; exact .plain hopc rfl rfl
  next hopc => rw [hopc]; exact .typed hopc rfl le_seven_iff_mem fun h => ⟨rfl, low3_iff.1 ⟨h, rfl⟩⟩
  next hopc => rw [hopc]; exact .plain hopc rfl rfl
  next hopc => rw [hopc]; exact .typed hopc rfl le_seven_iff_mem fun h => ⟨rfl, low3_iff.1 ⟨h, rfl⟩⟩
  next hopc => rw [hopc]; exact .typed hopc rfl boolLegal_iff_mem fun h => ⟨rfl, boolLegal_iff.1 ⟨h, rfl⟩⟩
  next hopc => rw [hopc]; exact .plain hopc rfl rfl
  next hopc => rw [hopc]; exact .plain hopc rfl rfl
  next hopc => rw [hopc]; exact .plain hopc rfl rfl
  next hopc => rw [hopc]; exact .plain hopc rfl rfl
  next hopc => rw [hopc]; exact .plain hopc rfl rfl
  next hopc => rw [hopc]; exact .typed hopc rfl padSelector_iff_mem fun h => oneHot_iff.1 ⟨h, rfl⟩
  next hopc => rw [hopc]; exact .plain hopc rfl rfl
  next hopc => rw [hopc]; exact .plain hopc rfl rfl
  next hopc => rw [hopc]; exact .typed hopc rfl le_seven_iff_mem fun h => ⟨rfl, low3_iff.1 ⟨h, rfl⟩⟩
  next hopc => rw [hopc]; exact .plain hopc rfl rfl
  next hopc => rw [hopc]; exact .typed hopc rfl le_three_iff_mem fun h => ⟨rfl, low2_iff.1 ⟨h, rfl⟩⟩
  next hopc => rw [hopc]; exact .plain hopc rfl rfl
  next hopc => rw [hopc]; exact .typed hopc rfl boolLegal_iff_mem fun h => ⟨rfl, boolLegal_iff.1 ⟨h, rfl⟩⟩
  next hopc => rw [hopc]; exact .plain hopc rfl rfl
  next hopc => rw [hopc]; exact .plain hopc rfl rfl
  next =>
    simp only [imp_false] at *
    rw [show tableRow f.opc = none by simp [tableRow, *]]
    exact .unassigned

/-- GETB is decoded exactly when B and RSV are 0 (R82). -/
theorem decodeGetb_ok (f : Fields) (i : Instr) :
    decodeGetb f = .ok i ↔ f.b = 0 ∧ f.rsv = 0 ∧ .getb f.a f.off f.wid = i := by
  unfold decodeGetb
  split_ifs <;> simp_all

/-- SETB is decoded exactly when RSV is 0 (R82). -/
theorem decodeSetb_ok (f : Fields) (i : Instr) :
    decodeSetb f = .ok i ↔ f.rsv = 0 ∧ .setb f.a f.b f.off f.wid = i := by
  unfold decodeSetb
  split_ifs <;> simp_all

/-- A decoded command is well formed, and the fields are its own. -/
theorem DecodesByRow.encodeFields_eq {f : Fields} {row : Option TableRow} {i : Instr}
    (h : DecodesByRow f row (.ok i)) : i.wellFormed = true ∧ encodeFields i = f := by
  generalize hx : Except.ok i = x at h
  cases h with
  | getb hopc =>
    obtain ⟨hb, hr, rfl⟩ := (decodeGetb_ok _ _).1 hx.symm
    exact ⟨rfl, by simp only [encodeFields, opcodeOf, ← hopc, ← hb, ← hr]⟩
  | setb hopc =>
    obtain ⟨hr, rfl⟩ := (decodeSetb_ok _ _).1 hx.symm
    exact ⟨rfl, by simp only [encodeFields, opcodeOf, ← hopc, ← hr]⟩
  | plain hopc hi henc =>
    obtain ⟨rfl, hf⟩ := (decodePlain_ok _ _ _).1 hx.symm
    exact ⟨hi, by rw [henc, ← hopc, ← hf]⟩
  | typed hopc henc _ hi =>
    obtain ⟨hlegal, rfl, hf⟩ := (decodeTyped_ok _ _ _ _).1 hx.symm
    obtain ⟨hwf, hb⟩ := hi hlegal
    exact ⟨hwf, by rw [henc, ← hopc, ← hb, ← hf]⟩
  | unassigned => cases hx

/-- Settles O6: the fields of the word are those of the command decoded, row by row, and a word is its fields. -/
theorem decodedWordIsTheEncoding : Obligations.DecodedWordIsTheEncoding := by
  intro w i hw
  have hrow : DecodesByRow (fieldsOf w) _ (decode w) := decodeFields_byRow (fieldsOf w)
  rw [hw] at hrow
  obtain ⟨hi, hf⟩ := hrow.encodeFields_eq
  exact ⟨hi, by rw [encode, hf, pack_fieldsOf]⟩

/-! ### The ILLEGAL words -/

/-- R80: OFF and WID together are bits 7 to 1. -/
theorem offWid_eq_zero_iff (w : CmdWord) : w.extractLsb' 1 7 = 0 ↔ (fieldsOf w).off = 0 ∧ (fieldsOf w).wid = 0 := by
  simp only [fieldsOf, ← BitVec.toNat_inj, BitVec.extractLsb'_toNat, Nat.shiftRight_eq_div_pow, BitVec.ofNat_eq_ofNat,
    BitVec.toNat_ofNat]
  omega

/-- A word keeps its row when the fields listed as zero are 0 and `B` is among the legal values (R83). -/
theorem not_breaksRow_iff (w : CmdWord) (r : TableRow) :
    ¬ breaksRow w r ↔ (r.zeroA = true → (fieldsOf w).a = 0) ∧ (r.zeroB = true → (fieldsOf w).b = 0) ∧
      (r.zeroOffWid = true → (fieldsOf w).off = 0 ∧ (fieldsOf w).wid = 0) ∧ (fieldsOf w).rsv = 0 ∧
      (r.legalB ≠ [] → (fieldsOf w).b ∈ r.legalB) := by
  simp only [breaksRow, offWid_eq_zero_iff, not_or, not_and, not_not]
  rfl

theorem illegal_eq_false_iff (w : CmdWord) : illegal w = false ↔ ∃ i, decodeFields (fieldsOf w) = .ok i := by
  rw [← Bool.not_eq_true, illegal_iff, not_forall]
  simp only [not_not]
  rfl

/-- With an assigned opcode, a command is decoded exactly when the word keeps its row. -/
theorem DecodesByRow.ok_iff {w : CmdWord} {r : TableRow} {x : Except DecodeError Instr}
    (h : DecodesByRow (fieldsOf w) (some r) x) : (∃ i, x = .ok i) ↔ ¬ breaksRow w r := by
  rw [not_breaksRow_iff]
  cases h with
  | getb => simp +contextual [decodeGetb_ok]
  | setb => simp [decodeSetb_ok]
  | plain =>
    simp only [decodePlain_ok, eq_typedFields_iff, exists_eq_left']
    grind
  | typed _ _ hlegal =>
    simp only [decodeTyped_ok, eq_typedFields_iff, exists_and_left, exists_eq_left', hlegal]
    grind

/-- Settles O7: not ILLEGAL is decoded to a command, and by `DecodesByRow.ok_iff` that is keeping the row. -/
theorem assignedOpcodeIllegalExactlyByTable : Obligations.AssignedOpcodeIllegalExactlyByTable := by
  intro w r hr
  have hrow : DecodesByRow (fieldsOf w) (some r) _ := hr ▸ decodeFields_byRow (fieldsOf w)
  rw [← not_iff_not, Bool.not_eq_true, illegal_eq_false_iff, hrow.ok_iff]

/-- With no row, no command is decoded (R84). -/
theorem illegal_of_tableRow_none {w : CmdWord} (hr : tableRow (w.extractLsb' 24 8) = none) : illegal w = true := by
  have hrow : DecodesByRow (fieldsOf w) none (decode w) := hr ▸ decodeFields_byRow (fieldsOf w)
  rw [illegal_iff]
  intro i hi
  rw [hi] at hrow
  cases hrow

/-- R84: the unassigned opcodes, as ranges. -/
theorem tableRow_isNone_iff (opc : Byte) :
    (tableRow opc).isNone = true ↔
      opc.toNat = 0 ∨ (0x03 ≤ opc.toNat ∧ opc.toNat ≤ 0x0F) ∨ (0x13 ≤ opc.toNat ∧ opc.toNat ≤ 0x1F) ∨
        (0x25 ≤ opc.toNat ∧ opc.toNat ≤ 0x2F) ∨ (0x37 ≤ opc.toNat ∧ opc.toNat ≤ 0x3F) ∨ 0x47 ≤ opc.toNat := by
  revert opc; decide

/-- Settles O8: the ILLEGAL words by `illegal_of_tableRow_none`, and the ranges and their number by going through the
256 opcodes. -/
theorem unassignedOpcodesIllegal : Obligations.UnassignedOpcodesIllegal := by
  refine ⟨fun _ => illegal_of_tableRow_none, fun n hn => ?_, by decide +kernel, illegal_of_tableRow_none (by decide),
    illegal_of_tableRow_none (by decide)⟩
  have hopc : (BitVec.ofNat 8 n).toNat = n := Nat.mod_eq_of_lt hn
  rw [tableRow_isNone_iff, hopc]

end Sys2Proof
end

section
/-! SUPPORT. The assembler: the command of every line and a line for every command, and the statements about lines
(R88, R89, R93, R94). -/

namespace Sys2Proof.Machine

open Sys2Proof Sys2Proof.Claims

/-! ### Every line's command, and every command's line -/

theorem PadSet.oneHot_bit (pad : Pad) : PadSet.oneHot pad.bit = true := by cases pad <;> rfl

/-- R93: a line's command is well formed: ISPT's is the only operand that could fail, and a pad's bit is one-hot. -/
theorem AsmLine.core_wellFormed {line : AsmLine} {i : Instr} (h : line.core = some i) : i.wellFormed = true := by
  cases i with
  | ispt pad =>
    cases line with
    | ispt x =>
      obtain rfl := Instr.ispt.inj (Option.some.inj h)
      exact PadSet.oneHot_bit x
    | plain op => cases op <;> cases h
    | _ => simp [AsmLine.core] at h
  | _ => rfl

/-- The pad of a one-hot pad set. -/
def padOfOneHot (p : PadSet) : Pad := if p = 0b001 then .left else if p = 0b010 then .middle else .right

theorem bit_padOfOneHot {p : PadSet} (hp : p.oneHot = true) : (padOfOneHot p).bit = p := by
  revert p; decide

/-- R93: a line whose command is the given one. -/
def lineOf : Instr → AsmLine
  | .getb a off wid => .getb a.toNat off.toNat wid.toNat
  | .setb a b off wid => .setb a.toNat b.toNat off.toNat wid.toNat
  | .bringup => .plain .bringup
  | .chks => .plain .chks
  | .recal => .plain .recal
  | .ssens level => .ssensCode level.toNat
  | .gsens => .plain .gsens
  | .siep pads => .siep (.mask pads.toNat)
  | .siea on => .siea on
  | .gie => .plain .gie
  | .clri => .plain .clri
  | .chkt => .plain .chkt
  | .gett => .plain .gett
  | .ist => .plain .ist
  | .ispt pad => .ispt (padOfOneHot pad)
  | .isls => .plain .isls
  | .isrs => .plain .isrs
  | .spbp pads => .spbp (.mask pads.toNat)
  | .gpbp => .plain .gpbp
  | .spbt time => .spbt (holdMs time)
  | .gpbt => .plain .gpbt
  | .spbe on => .spbe on
  | .gpbe => .plain .gpbe
  | .ispb => .plain .ispb

theorem timeOf_holdMs (c : BitVec 2) : timeOf (holdMs c) = some c := by revert c; decide

/-- A number that fits a pad set. -/
theorem PadArg.value_mask {n : Nat} (hn : n ≤ 7) : (PadArg.mask n).value = some (BitVec.ofNat 3 n) := if_pos hn

theorem PadArg.value_mask_eq_none {n : Nat} (hn : 7 < n) : (PadArg.mask n).value = none := if_neg (Nat.not_le.2 hn)

theorem lineOf_instr {i : Instr} (hi : i.wellFormed = true) : (lineOf i).instr = some i := by
  cases i with
  | getb a off wid =>
    have hfits : a.toNat ≤ 0xFF ∧ off.toNat ≤ 7 ∧ wid.toNat ≤ 15 := by omega
    simp [lineOf, AsmLine.instr, AsmLine.expand, AsmLine.core, hfits]
  | setb a b off wid =>
    have hfits : a.toNat ≤ 0xFF ∧ b.toNat ≤ 0xFF ∧ off.toNat ≤ 7 ∧ wid.toNat ≤ 15 := by omega
    simp [lineOf, AsmLine.instr, AsmLine.expand, AsmLine.core, hfits]
  | ssens level =>
    have hfits : level.toNat ≤ 7 := by omega
    simp [lineOf, AsmLine.instr, AsmLine.expand, AsmLine.core, hfits]
  | siep pads =>
    have hfits : pads.toNat ≤ 7 := by omega
    simp [lineOf, AsmLine.instr, AsmLine.expand, AsmLine.core, PadArg.value_mask hfits]
  | ispt pad => exact congrArg (some ∘ Instr.ispt) (bit_padOfOneHot hi)
  | spbp pads =>
    have hfits : pads.toNat ≤ 7 := by omega
    simp [lineOf, AsmLine.instr, AsmLine.expand, AsmLine.core, PadArg.value_mask hfits]
  | spbt time => exact congrArg (Option.map Instr.spbt) (timeOf_holdMs time)
  | _ => rfl

/-! ### The words of lines with a `pads` operand -/

theorem padByte_cons (x : Pad) (ps : List Pad) : padByte (x :: ps) = x.bit.setWidth 8 ||| padByte ps := by
  cases x <;> simp only [padByte, List.mem_cons, reduceCtorEq, true_or, false_or, if_true] <;> split_ifs <;> rfl

theorem padByte_eq (ps : List Pad) : padByte ps = (PadSet.ofList ps).setWidth 8 := by
  induction ps with
  | nil => rfl
  | cons x ps ih => rw [padByte_cons, ih, PadSet.ofList, PadSet.union, BitVec.setWidth_or]

/-- R93: a number that fits three bits is the byte `B` as it stands. -/
theorem setWidth_ofNat_of_le_seven {n : Nat} (hn : n ≤ 7) : (BitVec.ofNat 3 n).setWidth 8 = BitVec.ofNat 8 n := by
  apply BitVec.eq_of_toNat_eq
  simp only [BitVec.toNat_setWidth, BitVec.toNat_ofNat]
  omega

theorem encode_of_typedFields {i : Instr} {opc b : Byte} (h : encodeFields i = typedFields opc b) :
    encode i = opc ++ 0x00#8 ++ b ++ 0x00#8 := by
  rw [encode, h, typedWord_eq]

/-- R93: a mnemonic whose command holds its pad set in `B`. -/
theorem padsLine {opc : Byte} {line : PadArg → AsmLine} {mk : PadSet → Instr}
    (hline : ∀ p, (line p).instr = p.value.map mk) (henc : ∀ p, encodeFields (mk p) = typedFields opc (p.setWidth 8)) :
    PadsLine opc line := by
  refine ⟨fun ps => ?_, fun n hn => ?_, fun n hn => ?_⟩
  · rw [assemble, hline, padByte_eq, ← encode_of_typedFields (henc _)]
    rfl
  · rw [assemble, hline, PadArg.value_mask hn, ← setWidth_ofNat_of_le_seven hn, ← encode_of_typedFields (henc _)]
    rfl
  · rw [assemble, hline, PadArg.value_mask_eq_none hn]
    rfl

/-! ### Level and time operands (R88, R89) -/

theorem levelOf_eq_none {m : Nat} (hm : m ∉ [128, 64, 32, 16, 8, 4, 2, 1]) : levelOf m = none := by
  have hmap : [128, 64, 32, 16, 8, 4, 2, 1] = List.map multiplier [0, 1, 2, 3, 4, 5, 6, 7] := by decide
  rw [hmap, List.mem_map] at hm
  exact List.find?_eq_none.2 fun c hc h => hm ⟨c, hc, beq_iff_eq.1 h⟩

theorem timeOf_eq_none {ms : Nat} (hms : ms ∉ [280, 560, 1120, 2240]) : timeOf ms = none := by
  have hmap : [280, 560, 1120, 2240] = List.map holdMs [0, 1, 2, 3] := by decide
  rw [hmap, List.mem_map] at hms
  exact List.find?_eq_none.2 fun c hc h => hms ⟨c, hc, beq_iff_eq.1 h⟩

theorem assemble_ssensCode {c : Nat} (hc : c ≤ 7) :
    assemble (.ssensCode c) = some (0x20#8 ++ 0x00#8 ++ BitVec.ofNat 8 c ++ 0x00#8) := by
  rw [← setWidth_ofNat_of_le_seven hc, ← encode_of_typedFields (i := .ssens (BitVec.ofNat 3 c)) (opc := 0x20#8) rfl]
  exact congrArg (Option.map encode) (if_pos hc)

/-! ### The statements about the assembler -/

/-- A line that assembles gives its command's word, and the command is well formed. -/
theorem exists_instr_of_assemble {line : AsmLine} {w : CmdWord} (h : assemble line = some w) :
    ∃ i, line.instr = some i ∧ i.wellFormed = true ∧ decode w = .ok i := by
  obtain ⟨i, hi, rfl⟩ := Option.map_eq_some_iff.1 h
  have hwf : i.wellFormed = true := AsmLine.core_wellFormed hi
  exact ⟨i, hi, hwf, decode_encode hwf⟩

theorem assemble_lineOf {i : Instr} (hi : i.wellFormed = true) : assemble (lineOf i) = some (encode i) :=
  congrArg (Option.map encode) (lineOf_instr hi)

theorem exists_mem_plainWords (op : PlainOp) : ∃ w, (op, w) ∈ plainWords :=
  ⟨encode op.instr, by cases op <;> decide⟩

/-- Settles O11: a line for every command by `lineOf`; then the words and the assembly errors form by form, each
through the command of its line. -/
theorem assemblerReachesEveryCommand : Obligations.AssemblerReachesEveryCommand :=
  ⟨fun _ _ => exists_instr_of_assemble, fun i hi => ⟨lineOf i, assemble_lineOf hi⟩,
    -- GETB and SETB
    fun _ _ _ hb ho hw => congrArg (Option.map encode) (if_pos ⟨hb, ho, hw⟩),
    fun _ _ _ _ hb hv ho hw => congrArg (Option.map encode) (if_pos ⟨hb, hv, ho, hw⟩),
    fun _ _ _ h => congrArg (Option.map encode) (if_neg (by omega)),
    fun _ _ _ _ h => congrArg (Option.map encode) (if_neg (by omega)),
    -- SSENS
    by decide, fun _ hm => congrArg (Option.map encode ∘ Option.map .ssens) (levelOf_eq_none hm),
    fun _ => assemble_ssensCode, fun _ hc => congrArg (Option.map encode) (if_neg (Nat.not_le.2 hc)),
    -- SIEP, SIE, SPBP, SPB with pads
    padsLine (fun _ => rfl) (fun _ => rfl), padsLine (fun _ => rfl) (fun _ => rfl),
    padsLine (fun _ => rfl) (fun _ => rfl), padsLine (fun _ => rfl) (fun _ => rfl),
    -- SIEA, SIE and SPBE, SPB with a boolean; ISPT and its pseudo-instructions
    by decide, by decide, by decide,
    -- SPBT
    by decide, fun _ hms => congrArg (Option.map encode ∘ Option.map .spbt) (timeOf_eq_none hms),
    -- the mnemonics that stand alone, and RESET
    exists_mem_plainWords, by decide, by decide⟩

/-- Settles O10: both tables are finite. -/
theorem levelAndTimeCodes : Obligations.LevelAndTimeCodes := by
  unfold Obligations.LevelAndTimeCodes
  decide

/-- Settles O12: the lines are literal, and the assembler runs on each. -/
theorem assemblyTextOfEachForm : Obligations.AssemblyTextOfEachForm := by
  unfold Obligations.AssemblyTextOfEachForm
  decide

end Sys2Proof.Machine
end

section
/-! SUPPORT. The laws of the bit-field codec (R114 to R117), bit by bit. -/

namespace Sys2Proof.Machine

open Sys2Proof

/-! ### One field -/

/-- R110: the mask as the rules write it. -/
theorem ofNat_one_shiftLeft_sub_one (w : Nat) : BitVec.ofNat 8 ((1 <<< w) - 1) = mask w := by
  rw [Nat.one_shiftLeft, mask]

/-- Bit `i` of a field's mask is set exactly inside the field (R115). -/
theorem fieldMask_getLsbD (o w i : Nat) :
    (BitVec.ofNat 8 (((1 <<< w) - 1) <<< o)).getLsbD i = decide (i < 8 ∧ o ≤ i ∧ i < o + w) := by
  rw [BitVec.getLsbD_ofNat, Nat.testBit_shiftLeft, Nat.one_shiftLeft, Nat.testBit_two_pow_sub_one]
  simp only [← Bool.decide_and, decide_eq_decide]
  omega

/-- R114: the field reads back as the value, masked. -/
theorem getBits_setBits (b v : Byte) {o w : Nat} (h : o + w ≤ 8) : getBits (setBits b v o w) o w = v &&& mask w := by
  refine BitVec.eq_of_getLsbD_eq fun i hi => ?_
  rw [getBits_getLsbD, setBits_getLsbD _ _ _ _ _ h, BitVec.getLsbD_and, mask_getLsbD]
  by_cases hw : i < w
  · simp [hw, hi]
  · simp [hw]

/-- R117: the last write to a field wins. -/
theorem setBits_setBits_same (b v₁ v₂ : Byte) {o w : Nat} (h : o + w ≤ 8) :
    setBits (setBits b v₁ o w) v₂ o w = setBits b v₂ o w := by
  refine BitVec.eq_of_getLsbD_eq fun i _ => ?_
  simp only [setBits_getLsbD _ _ _ _ _ h]
  split_ifs <;> rfl

/-- R117: writing back what was read changes nothing. -/
theorem setBits_getBits (b : Byte) {o w : Nat} (h : o + w ≤ 8) : setBits b (getBits b o w) o w = b := by
  refine BitVec.eq_of_getLsbD_eq fun i _ => ?_
  rw [setBits_getLsbD _ _ _ _ _ h, getBits_getLsbD]
  split_ifs with hf
  · simp [show i - o < w by omega, Nat.add_sub_cancel' hf.1]
  · rfl

/-- R117: writes to disjoint fields commute. -/
theorem setBits_comm (b v₁ v₂ : Byte) {o₁ w₁ o₂ w₂ : Nat} (h₁ : o₁ + w₁ ≤ 8) (h₂ : o₂ + w₂ ≤ 8)
    (hdisjoint : o₁ + w₁ ≤ o₂ ∨ o₂ + w₂ ≤ o₁) :
    setBits (setBits b v₁ o₁ w₁) v₂ o₂ w₂ = setBits (setBits b v₂ o₂ w₂) v₁ o₁ w₁ := by
  refine BitVec.eq_of_getLsbD_eq fun i _ => ?_
  simp only [setBits_getLsbD _ _ _ _ _ h₁, setBits_getLsbD _ _ _ _ _ h₂]
  split_ifs with hf₂ hf₁
  · omega
  all_goals rfl

/-- R117: a field of width 0 reads 0. -/
theorem getBits_zero_width (b : Byte) (o : Nat) : getBits b o 0 = 0 := by simp [getBits, mask]

/-- R117: a field of width 0 holds no bit to write. -/
theorem setBits_zero_width (b v : Byte) {o : Nat} (h : o ≤ 8) : setBits b v o 0 = b := by
  refine BitVec.eq_of_getLsbD_eq fun i _ => ?_
  rw [setBits_getLsbD _ _ _ _ _ h, if_neg (by omega)]

/-! ### The statements -/

/-- Settles O1: a bit of the field read back is, by `setBits_getLsbD`, a bit of the value. -/
theorem fieldReadsBackWhatWasInserted : Obligations.FieldReadsBackWhatWasInserted := fun b v _ w h =>
  (getBits_setBits b v h).trans (by rw [ofNat_one_shiftLeft_sub_one w])

/-- Settles O2: a bit outside the mask is outside the field, where `set_bits` keeps the byte's own. -/
theorem insertLeavesOtherBits : Obligations.InsertLeavesOtherBits := by
  intro b v o w h
  refine BitVec.eq_of_getLsbD_eq fun i hi => ?_
  simp only [BitVec.getLsbD_and, BitVec.getLsbD_not, fieldMask_getLsbD, setBits_getLsbD _ _ _ _ _ h]
  by_cases hf : o ≤ i ∧ i < o + w
  · simp [hf, hi]
  · simp [hf]

/-- Settles O3: a one-bit field is below 2. -/
theorem oneBitFieldsAreBoolean : Obligations.OneBitFieldsAreBoolean := fun b o _ => getBits_one b o

/-- Settles O4, law by law; idempotence is the last write winning with one value. -/
theorem codecAlgebra : Obligations.CodecAlgebra :=
  ⟨fun b v _ _ => setBits_setBits_same b v v, fun b _ _ => setBits_getBits b,
    fun b v₁ v₂ _ _ => setBits_setBits_same b v₁ v₂, fun b v₁ v₂ _ _ _ _ => setBits_comm b v₁ v₂,
    fun b v o h => ⟨getBits_zero_width b o, setBits_zero_width b v h⟩, fun b o w _ => getBits_toNat_lt b o w⟩

end Sys2Proof.Machine
end

section
/-! SUPPORT. A command between its accept step and its end, and the codec commands GETB and SETB (R26, R111, R112,
R232). -/

namespace Sys2Proof.Machine

open Sys2Proof Sys2Proof.Claims

/-! ### A command under way -/

/-- R26: `u` is in the command begun in `s`, after its accept step and before its end: no error and no result, the
warnings and pad registers set so far, the transactions issued so far, newest first. -/
structure Underway (s u : State) (w : BitVec 3) (bc cal : PadSet) (bus : List BusEvent) : Prop where
  cpc : u.block.cpc = s.block.cpc
  err : u.block.err = 0
  errInfo : u.block.errInfo = 0
  resultValid : u.block.resultValid = false
  result : u.block.result = s.block.result
  warn : u.block.warn = w
  bcPads : u.block.bcPads = bc
  calPads : u.block.calPads = cal
  bus : u.trace.bus = bus ++ s.trace.bus
  commits : u.trace.commits = s.trace.commits
  host : u.host = s.host
  plat : u.plat = s.plat
  grain : u.env.grain = s.env.grain

section
variable {s u : State} {w : BitVec 3} {bc cal : PadSet} {bus : List BusEvent}

/-- R26: the accept step clears the status registers and leaves the rest. -/
theorem Underway.accept (hr : (s.env.slotAt 0).reset = false) : Underway s s.accept 0 0 0 [] := by
  constructor <;> simp [State.accept_block_noReset hr, Block.acceptClear]

theorem Underway.progress (h : Underway s u w bc cal bus) (op : Instr) (k : Nat) (locals : List Byte) :
    Underway s (u.progress op k locals) w bc cal bus := { h with }

theorem Underway.arrive (h : Underway s u w bc cal bus) : Underway s u.arrive w bc cal bus :=
  { h with grain := u.env.advance_grain.trans h.grain }

/-- R26: `complete(r)`. -/
theorem Underway.completeWith (h : Underway s u w bc cal bus) (r : Byte) :
    Completes s (u.completeWith r) (some r) w bc cal bus :=
  { h with
    phase := rfl
    cpc := congrArg (· + 1) h.cpc
    resultValid := rfl
    result := rfl
    commits := by simp [Block.record, h.err, h.errInfo, h.warn, h.bcPads, h.calPads, h.commits] }

/-- R238: `raise E(info)`. -/
theorem Underway.raiseError (h : Underway s u w bc cal bus) (e : Error) : Fails s (u.raiseError e) e w bc cal bus :=
  { h with
    phase := rfl
    cpc := congrArg (· + 1) h.cpc
    err := rfl
    errInfo := rfl
    resultValid := rfl
    commits := by simp [Block.record, h.warn, h.bcPads, h.calPads, h.commits] }

end

/-! ### A command that completes with no transaction, and one that its accept check refuses -/

/-- R20, R29: the block can accept a word exactly in IDLE. -/
theorem State.cmdReady_iff {s : State} : s.cmdReady = true ↔ s.block.phase = .idle := by
  cases h : s.block.phase <;> simp [State.cmdReady, h]

/-- What `accepting` says, fact by fact. -/
theorem accepting_facts {s : State} (h : accepting s = true) :
    s.block.phase = .idle ∧ s.env.grain = .command ∧ (s.env.slotAt 0).reset = false := by
  simpa [accepting, State.cmdReady_iff, and_assoc] using h

/-- A command whose pseudocode only completes with a result takes an accept step and a commit (R26, R62). -/
theorem exec_completes_of_result {i : Instr} {r : Byte} {s : State} (hscr : scriptOf s.plat i = .result r)
    (hc : acceptCheck i = none) (h : runsWell s [] = true) :
    ∃ t, exec i s = .next t ∧ Completes s t (some r) 0 0 0 [] ∧ t.sensor = (s.arriveN 2).sensor := by
  obtain ⟨hp, hg, hr0, -, hr1⟩ := runsWell_facts h
  have hcommit : (s.accept.progress i 0 []).env.next.reset = false := by simpa using hr1
  refine ⟨_, exec_runs hp hg hc, ?_, ?_⟩ <;> rw [hscr, runScript, hcommit, if_neg Bool.false_ne_true]
  · exact ((Underway.accept hr0).progress i 0 []).arrive.completeWith r
  · simp [State.arriveN]

/-- A command that its accept check refuses ends in its accept step, with no transaction (R26, R113). -/
theorem exec_fails_of_acceptCheck {i : Instr} {e : Error} {s : State} (hc : acceptCheck i = some e)
    (h : accepting s = true) :
    ∃ t, exec i s = .next t ∧ Fails s t e 0 0 0 [] ∧ t.sensor = (s.arriveN 1).sensor := by
  obtain ⟨hp, -, hr⟩ := accepting_facts h
  exact ⟨_, exec_refuses hp hc, (Underway.accept hr).raiseError e, s.accept_sensor⟩

/-! ### GETB and SETB -/

theorem rangeError_eq_none {off : BitVec 3} {wid : BitVec 4} (h : off.toNat + wid.toNat ≤ 8) :
    rangeError off wid = none := if_pos (decide_eq_true h)

theorem rangeError_eq_some {off : BitVec 3} {wid : BitVec 4} (h : off.toNat + wid.toNat > 8) :
    rangeError off wid = some (.fieldRange off wid) :=
  if_neg fun hok => Nat.not_le.2 h (of_decide_eq_true hok)

/-- R47: FieldRange records `OFF ++ WID`, WID in the low four bits. -/
theorem fieldRange_info_toNat (off : BitVec 3) (wid : BitVec 4) :
    (Error.fieldRange off wid).info.toNat = off.toNat * 16 + wid.toNat := by
  rw [Error.info, BitVec.toNat_setWidth, BitVec.toNat_append, ← Nat.shiftLeft_add_eq_or_of_lt wid.isLt,
    Nat.shiftLeft_eq]
  omega

/-- A command with the range check of R113, whose pseudocode only completes with a result. -/
theorem codecCommand_of_result {i : Instr} {off : BitVec 3} {wid : BitVec 4} {r : Byte}
    (hc : acceptCheck i = rangeError off wid) (hscr : ∀ p, scriptOf p i = .result r) : CodecCommand i off wid r := by
  refine ⟨fun s hrange h => exec_completes_of_result (hscr s.plat) (hc.trans (rangeError_eq_none hrange)) h,
    fun s hrange h => ?_⟩
  obtain ⟨t, he, hf, hs⟩ := exec_fails_of_acceptCheck (hc.trans (rangeError_eq_some hrange)) h
  exact ⟨t, he, hf, hf.err, hf.errInfo ▸ fieldRange_info_toNat off wid, hs⟩

/-- Settles O18: the words by `decode_encode` and R82's rows; the runs by `codecCommand_of_result`. -/
theorem codecCommandsOnTheirOperands : Obligations.CodecCommandsOnTheirOperands := by
  refine ⟨fun a off wid => ⟨decode_encode (i := .getb a off wid) rfl, codecCommand_of_result rfl fun _ => rfl⟩,
    fun a b off wid => ⟨decode_encode (i := .setb a b off wid) rfl, codecCommand_of_result rfl fun _ => rfl⟩,
    fun w hw => ?_, fun w hw => ?_⟩
  · rw [assignedOpcodeIllegalExactlyByTable w ⟨false, true, false, [0x00]⟩ (by rw [hw]; rfl)]
    simp [breaksRow, or_left_comm, or_comm]
  · rw [assignedOpcodeIllegalExactlyByTable w ⟨false, false, false, []⟩ (by rw [hw]; rfl)]
    simp [breaksRow]

/-- Settles O9: the words are literal, and the decoder runs on each. -/
theorem specExampleWordsDecode : Obligations.SpecExampleWordsDecode := by
  unfold Obligations.SpecExampleWordsDecode
  decide

end Sys2Proof.Machine
end

section
/-! SUPPORT. The word of a command with no operand (R82, R83). -/

namespace Sys2Proof

open Sys2Proof.Machine Sys2Proof.Claims

/-- R82: a word of an "all zero" row that is not ILLEGAL has nothing but its opcode. -/
theorem fieldsOf_of_plainRow {w : CmdWord} (hrow : tableRow (w.extractLsb' 24 8) = some ⟨true, true, true, [0x00]⟩)
    (hw : illegal w ≠ true) : fieldsOf w = typedFields (w.extractLsb' 24 8) 0 := by
  obtain ⟨ha, hb, hoffWid, hrsv, -⟩ :=
    (not_breaksRow_iff w _).1 fun hbreaks => hw ((assignedOpcodeIllegalExactlyByTable w _ hrow).2 hbreaks)
  obtain ⟨hoff, hwid⟩ := hoffWid rfl
  exact (eq_typedFields_iff (fieldsOf w) 0).2 ⟨ha rfl, hb rfl, hoff, hwid, hrsv⟩

/-- R82, R83: the word of a command in an "all zero" row is the only one of its opcode that is not ILLEGAL. -/
theorem plainWord_of_row {i : Instr} {word : CmdWord} (hi : decode word = .ok i)
    (hrow : tableRow (word.extractLsb' 24 8) = some ⟨true, true, true, [0x00]⟩) : PlainWord i word := by
  refine ⟨hi, fun w hopc hne => by_contra fun hw => hne (eq_of_fieldsOf_eq ?_)⟩
  have hword : illegal word ≠ true := fun h => (illegal_iff word).1 h i hi
  rw [fieldsOf_of_plainRow (hopc ▸ hrow) hw, fieldsOf_of_plainRow hrow hword, hopc]

end Sys2Proof
end

section
/-! SUPPORT. A command's run, transaction by transaction (R26, R52 to R55, R170): how far it has come, and how it
ends. -/

namespace Sys2Proof.Machine

open Sys2Proof Sys2Proof.Claims

/-! ### The pseudocode, one transaction at a time -/

section
variable {s : State} {a v : Byte} (hr : (s.env.slotAt 0).reset = false)
include hr

theorem runScript_read_ok {rest : Byte → Script} (hok : readOk (s.env.slotAt 0).reply = true) :
    runScript (.read a rest) s = runScript (rest (s.arrive.sensor.reg a)) (s.arrive.doneRead a) := by
  simp [runScript, hr, hok]

theorem runScript_read_fails {rest : Byte → Script} (hok : readOk (s.env.slotAt 0).reply = false) :
    runScript (.read a rest) s = s.arrive.failRead a := by
  simp [runScript, hr, hok]

theorem runScript_write_ok {rest : Script} (hok : writeOk (s.env.slotAt 0).reply = true) :
    runScript (.write a v rest) s = runScript rest (s.arrive.doneWrite a v) := by
  simp [runScript, hr, hok]

theorem runScript_write_fails {rest : Script} (hok : writeOk (s.env.slotAt 0).reply = false) :
    runScript (.write a v rest) s = s.arrive.failWrite a v (s.env.slotAt 0).landed := by
  simp [runScript, hr, hok]

theorem runScript_result_ok (r : Byte) : runScript (.result r) s = s.arrive.completeWith r := by
  simp [runScript, hr]

theorem runScript_finish_ok : runScript .finish s = s.arrive.completeNone := by
  simp [runScript, hr]

end

/-! ### A command under way, one operation at a time -/

section
variable {s u : State} {w : BitVec 3} {bc cal : PadSet} {bus : List BusEvent}

/-- R26: `complete()`. -/
theorem Underway.completeNone (h : Underway s u w bc cal bus) : Completes s u.completeNone none w bc cal bus :=
  { h with
    phase := rfl
    cpc := congrArg (· + 1) h.cpc
    commits := by simp [Block.record, h.err, h.errInfo, h.resultValid, h.warn, h.bcPads, h.calPads, h.commits] }

theorem Underway.logRead (h : Underway s u w bc cal bus) (a : Byte) (data : Option Byte) :
    Underway s (u.logRead a data) w bc cal (.read Config.devAddr a data :: bus) :=
  { h with bus := congrArg (_ :: ·) h.bus }

theorem Underway.logWrite (h : Underway s u w bc cal bus) (a v : Byte) (ok : Bool) :
    Underway s (u.logWrite a v ok) w bc cal (.write Config.devAddr a v ok :: bus) :=
  { h with bus := congrArg (_ :: ·) h.bus }

theorem Underway.storeReg (h : Underway s u w bc cal bus) (a v : Byte) : Underway s (u.storeReg a v) w bc cal bus :=
  { h with }

theorem Underway.storeReg_if (h : Underway s u w bc cal bus) (landed : Bool) (a v : Byte) :
    Underway s (if landed then u.storeReg a v else u) w bc cal bus := by
  cases landed with
  | false => exact h
  | true => exact h.storeReg a v

/-- R236: CHKS's first warning. -/
theorem Underway.warnedBaseCount (h : Underway s u w bc cal bus) (pads : PadSet) :
    Underway s (u.warned (.baseCountOut pads)) (w ||| wBcOut) pads cal bus :=
  { h with warn := congrArg (· ||| wBcOut) h.warn, bcPads := rfl }

/-- R236: CHKS's second warning. -/
theorem Underway.warnedCalibration (h : Underway s u w bc cal bus) (pads : PadSet) :
    Underway s (u.warned (.calibrationFailed pads)) (w ||| wCalFail) bc pads bus :=
  { h with warn := congrArg (· ||| wCalFail) h.warn, calPads := rfl }

end

/-! ### How far a command has come -/

/-- The state with other block registers and histories: what the sensor, the slots and the host are does not change. -/
def State.withBlock (b : Block) (tr : Trace) (s : State) : State := { s with block := b, trace := tr }

/-- Command `i`, begun in `s`, has come to the pseudocode `rest` with the warnings and pad registers set so far and the
transactions `bus` issued so far, newest first; the sensor, the coming slots and the parameters are as in `v`. Its
coming transactions `ks` succeed, and no reset falls before them or the block step after them. -/
inductive Reaches (i : Instr) (s : State) (ks : List BusKind) (rest : Script) (v : State) (w : BitVec 3)
    (bc cal : PadSet) (bus : List BusEvent) : Prop
  | intro (b : Block) (tr : Trace) (runs : exec i s = .next (runScript rest (v.withBlock b tr)))
      (underway : Underway s (v.withBlock b tr) w bc cal bus)
      (slots : ∀ j, v.env.slotAt j = s.env.slotAt (bus.length + 1 + j))
      (answers : answersFrom s.env (bus.length + 1) ks = true)
      (ends : (s.env.slotAt (bus.length + 1 + ks.length)).reset = false)

theorem answersFrom_cons {e : Env} {n : Nat} {k : BusKind} {ks : List BusKind} :
    answersFrom e n (k :: ks) = true ↔
      (e.slotAt n).reset = false ∧ replyOk k (e.slotAt n).reply = true ∧ answersFrom e (n + 1) ks = true := by
  simp [answersFrom, and_assoc]

/-- One slot taken, the coming slots are one nearer. -/
theorem slots_advance {e e' : Env} {n : Nat} (h : ∀ j, e.slotAt j = e'.slotAt (n + j)) (j : Nat) :
    e.advance.slotAt j = e'.slotAt (n + 1 + j) := by
  rw [Env.slotAt_advance, h]
  exact congrArg _ (Nat.add_right_comm n j 1)

/-- R26: a command whose coming transactions succeed comes to its pseudocode by its accept step. -/
theorem reaches_of_runsWell {i : Instr} {s : State} {ks : List BusKind} (hc : acceptCheck i = none)
    (h : runsWell s ks = true) : Reaches i s ks (scriptOf s.plat i) (s.arriveN 1) 0 0 0 [] := by
  obtain ⟨hp, hg, hr, hanswers, hend⟩ := runsWell_facts h
  have hbegun : s.accept.progress i 0 [] = (s.arriveN 1).withBlock (s.accept.progress i 0 []).block s.trace := by
    rw [State.accept, State.idleArrive_noReset hr]
    rfl
  exact ⟨_, _, hbegun ▸ exec_runs hp hg hc, hbegun ▸ (Underway.accept hr).progress i 0 [],
    fun j => (s.env.slotAt_advance j).trans (congrArg _ (Nat.add_comm j 1)), hanswers, Nat.add_comm _ _ ▸ hend⟩

/-- A command whose transaction after `ks` fails runs well up to it. -/
theorem failsAt_iff {s : State} {ks : List BusKind} {k : BusKind} :
    failsAt s ks k = true ↔ runsWell s ks = true ∧ replyOk k (s.env.slotAt (ks.length + 1)).reply = false := by
  simp [failsAt, runsWell]

section
variable {i : Instr} {s v : State} {ks : List BusKind} {rest : Script} {w : BitVec 3} {bc cal : PadSet}
  {bus : List BusEvent} {a b : Byte}

theorem Reaches.of_eq {rest' : Script} (h : Reaches i s ks rest v w bc cal bus) (heq : rest = rest') :
    Reaches i s ks rest' v w bc cal bus := heq ▸ h

/-- R52: a read that succeeds. -/
theorem Reaches.read {rest : Byte → Script} (h : Reaches i s (.rd :: ks) (.read a rest) v w bc cal bus) :
    Reaches i s ks (rest (v.arrive.sensor.reg a)) v.arrive w bc cal (readOf a (v.arrive.sensor.reg a) :: bus) := by
  obtain ⟨b, tr, hruns, hunder, hslots, hanswers, hend⟩ := h
  obtain ⟨hr, hok, hanswers⟩ := answersFrom_cons.1 hanswers
  have hslot : v.env.slotAt 0 = s.env.slotAt (bus.length + 1) := hslots 0
  exact ⟨b, _, hruns.trans (congrArg _ (runScript_read_ok (hslot ▸ hr) (hslot ▸ hok))),
    hunder.arrive.logRead a _, slots_advance hslots, hanswers,
    Nat.add_right_comm (bus.length + 1) ks.length 1 ▸ hend⟩

/-- R53: a write that succeeds. -/
theorem Reaches.write (h : Reaches i s (.wr :: ks) (.write a b rest) v w bc cal bus) :
    Reaches i s ks rest (v.arrive.storeReg a b) w bc cal (writeOf a b :: bus) := by
  obtain ⟨blk, tr, hruns, hunder, hslots, hanswers, hend⟩ := h
  obtain ⟨hr, hok, hanswers⟩ := answersFrom_cons.1 hanswers
  have hslot : v.env.slotAt 0 = s.env.slotAt (bus.length + 1) := hslots 0
  exact ⟨blk, _, hruns.trans (congrArg _ (runScript_write_ok (hslot ▸ hr) (hslot ▸ hok))),
    (hunder.arrive.storeReg a b).logWrite a b true, slots_advance hslots, hanswers,
    Nat.add_right_comm (bus.length + 1) ks.length 1 ▸ hend⟩

/-- R236: CHKS's first warning. -/
theorem Reaches.warnBaseCount {pads : PadSet} (h : Reaches i s ks (.warn (.baseCountOut pads) rest) v w bc cal bus) :
    Reaches i s ks rest v (w ||| wBcOut) pads cal bus := by
  obtain ⟨b, tr, hruns, hunder, hslots, hanswers, hend⟩ := h
  exact ⟨b.applyWarning _, tr, hruns, hunder.warnedBaseCount pads, hslots, hanswers, hend⟩

/-- R236: CHKS's second warning. -/
theorem Reaches.warnCalibration {pads : PadSet}
    (h : Reaches i s ks (.warn (.calibrationFailed pads) rest) v w bc cal bus) :
    Reaches i s ks rest v (w ||| wCalFail) bc pads bus := by
  obtain ⟨b, tr, hruns, hunder, hslots, hanswers, hend⟩ := h
  exact ⟨b.applyWarning _, tr, hruns, hunder.warnedCalibration pads, hslots, hanswers, hend⟩

/-- R26: the command ends with `complete(r)`. -/
theorem Reaches.result {r : Byte} (h : Reaches i s [] (.result r) v w bc cal bus) :
    ∃ t, exec i s = .next t ∧ Completes s t (some r) w bc cal bus ∧ t.sensor = v.arrive.sensor := by
  obtain ⟨b, tr, hruns, hunder, hslots, -, hend⟩ := h
  have hr : ((v.withBlock b tr).env.slotAt 0).reset = false := hslots 0 ▸ hend
  exact ⟨_, hruns.trans (congrArg _ (runScript_result_ok hr r)), hunder.arrive.completeWith r, rfl⟩

/-- R26: the command ends with `complete()`. -/
theorem Reaches.finish (h : Reaches i s [] .finish v w bc cal bus) :
    ∃ t, exec i s = .next t ∧ Completes s t none w bc cal bus ∧ t.sensor = v.arrive.sensor := by
  obtain ⟨b, tr, hruns, hunder, hslots, -, hend⟩ := h
  have hr : ((v.withBlock b tr).env.slotAt 0).reset = false := hslots 0 ▸ hend
  exact ⟨_, hruns.trans (congrArg _ (runScript_finish_ok hr)), hunder.arrive.completeNone, rfl⟩

/-- R54: a read that fails ends the command. -/
theorem Reaches.failRead {rest : Byte → Script} (h : Reaches i s [] (.read a rest) v w bc cal bus)
    (hf : replyOk .rd (s.env.slotAt (bus.length + 1)).reply = false) :
    ∃ t, exec i s = .next t ∧
      Fails s t (.transportError .rd a) w bc cal (.read Config.devAddr a none :: bus) ∧
      t.sensor = v.arrive.sensor := by
  obtain ⟨b, tr, hruns, hunder, hslots, -, hend⟩ := h
  have hslot : v.env.slotAt 0 = s.env.slotAt (bus.length + 1) := hslots 0
  have hr : ((v.withBlock b tr).env.slotAt 0).reset = false := hslots 0 ▸ hend
  exact ⟨_, hruns.trans (congrArg _ (runScript_read_fails hr (hslot ▸ hf))),
    (hunder.arrive.logRead a none).raiseError _, rfl⟩

/-- R55: a write that fails ends the command; the byte is stored or not, as the slot draws. -/
theorem Reaches.failWrite (h : Reaches i s [] (.write a b rest) v w bc cal bus)
    (hf : replyOk .wr (s.env.slotAt (bus.length + 1)).reply = false) :
    ∃ t, exec i s = .next t ∧
      Fails s t (.transportError .wr a) w bc cal (.write Config.devAddr a b false :: bus) ∧
      t.sensor = maybeStored (s.env.slotAt (bus.length + 1)).landed a b v.arrive := by
  obtain ⟨blk, tr, hruns, hunder, hslots, -, hend⟩ := h
  have hslot : v.env.slotAt 0 = s.env.slotAt (bus.length + 1) := hslots 0
  have hr : ((v.withBlock blk tr).env.slotAt 0).reset = false := hslots 0 ▸ hend
  refine ⟨_, hruns.trans (congrArg _ (runScript_write_fails hr (hslot ▸ hf))),
    ((hunder.arrive.storeReg_if _ a b).logWrite a b false).raiseError _, ?_⟩
  rw [← hslot]
  show (if (v.env.slotAt 0).landed then _ else _ : State).sensor = _
  unfold maybeStored
  split <;> rfl

end

/-! ### The latch clear -/

section
variable {i : Instr} {s v : State} {rest : Script} {w : BitVec 3} {bc cal : PadSet} {bus : List BusEvent}

theorem Reaches.plat {ks : List BusKind} (h : Reaches i s ks rest v w bc cal bus) : v.plat = s.plat := by
  obtain ⟨b, tr, -, hunder⟩ := h
  exact hunder.plat

/-- R170: a latch clear in a command's run, from the state `v.arrive` that its first transaction finds. -/
theorem Reaches.clearLatch {ks : List BusKind}
    (h : Reaches i s (clearKinds s.plat.latchMode ++ ks) (.clearLatch s.plat.latchMode rest) v w bc cal bus) :
    Reaches i s ks rest (justCleared v.arrive) w bc cal (clearBus v.arrive ++ bus) := by
  unfold justCleared clearBus clearWriteAt clearByte clearReads
  rw [State.arrive_plat, h.plat]
  cases hmode : s.plat.latchMode with
  | blindZero => rw [hmode] at h; exact h.write
  | rmw => rw [hmode] at h; exact h.read.write

/-- R240: the failures of a latch clear that a command comes to after its transactions `pre`. -/
theorem clearFailures_of_reaches {pre : List BusKind} (hlen : bus.length = pre.length) (hplat : v.plat = s.plat)
    (h : ∀ ks, runsWell s (pre ++ ks) = true → Reaches i s ks (.clearLatch s.plat.latchMode rest) v 0 0 0 bus) :
    ClearFailures i s pre bus v.arrive := by
  unfold ClearFailures clearByte clearReads clearWriteAt
  rw [State.arrive_plat, hplat, ← hlen]
  cases hmode : s.plat.latchMode with
  | blindZero =>
    simp only [hmode] at h
    refine ⟨nofun, fun hf => ?_⟩
    obtain ⟨hruns, hfails⟩ := failsAt_iff.1 hf
    rw [List.length_append, ← hlen] at hfails
    exact (h _ hruns).failWrite hfails
  | rmw =>
    simp only [hmode] at h
    refine ⟨fun _ hf => ?_, fun hf => ?_⟩
    · obtain ⟨hruns, hfails⟩ := failsAt_iff.1 hf
      rw [← hlen] at hfails
      exact (h [] (by rwa [List.append_nil])).failRead hfails
    · obtain ⟨hruns, hfails⟩ := failsAt_iff.1 hf
      rw [List.length_append, ← hlen] at hfails
      exact (h _ hruns).read.failWrite hfails

end

/-- R170: the byte that a latch clear writes has bit 0 = 0. -/
theorem clearByte_bit0 (u : State) : (clearByte u).getLsbD 0 = false := by
  unfold clearByte
  cases u.plat.latchMode with
  | blindZero => exact BitVec.getLsbD_zero
  | rmw => exact setBits_clears_bit0 _

/-- R60, R170: the latch is 0 just after a latch clear. -/
theorem justCleared_latch (u : State) : (justCleared u).sensor.latch = false := by
  rw [justCleared, State.storeReg_sensor, Sensor.latch_store, if_pos rfl, clearByte_bit0]

/-! ### Registers that no sensor step changes -/

section
variable {s : State} {a : Byte} (h : sensorLeaves s.plat a = true)
include h

theorem State.arrive_reg_left : s.arrive.sensor.reg a = s.sensor.reg a := sensorSteps_reg_left h _ _

theorem State.arriveN_reg_left (n : Nat) : (s.arriveN n).sensor.reg a = s.sensor.reg a := by
  induction n generalizing s with
  | zero => rfl
  | succ n ih => exact (ih (s := s.arrive) h).trans (State.arrive_reg_left h)

theorem seenAt_left (n : Nat) : seenAt s n a = s.sensor.reg a := State.arriveN_reg_left h (n + 1)

theorem State.storeReg_arrive_reg_left (b v : Byte) :
    (s.storeReg b v).arrive.sensor.reg a = if a = b then v else s.sensor.reg a :=
  (State.arrive_reg_left (s := s.storeReg b v) h).trans (Sensor.reg_store _ _ _ _ _)

/-- R170: a latch clear leaves every such register; main control is none. -/
theorem clearedSensor_reg_left : (clearedSensor s).reg a = s.sensor.reg a := by
  have hmain : a ≠ Config.regMainControl := by rintro rfl; simp [sensorLeaves] at h
  unfold clearedSensor justCleared clearWriteAt
  cases s.plat.latchMode with
  | blindZero => rw [State.storeReg_arrive_reg_left h, if_neg hmain]
  | rmw =>
    have hstore := State.storeReg_arrive_reg_left (s := s.arrive) h Config.regMainControl (clearByte s)
    rw [hstore, if_neg hmain, State.arrive_reg_left h]

end

end Sys2Proof.Machine
end

section
/-! SUPPORT. Device control: BRINGUP, CHKS and RECAL (R130 to R132). -/

namespace Sys2Proof.Machine

open Sys2Proof Sys2Proof.Claims

/-! ### BRINGUP -/

section
variable {s : State} {ks : List BusKind}

/-- R130: BRINGUP after its first read-modify-write. -/
theorem bringup_comes_to_enable (h : runsWell s (.rd :: .wr :: ks) = true) :
    Reaches .bringup s ks (.modify Config.regIntEnable 0b111 0 3 (.clearLatch s.plat.latchMode .finish))
      ((s.arriveN 3).storeReg Config.regSensitivity (setBits (seenAt s 1 Config.regSensitivity) 6 4 3)) 0 0 0
      ((bringupBus s).drop 2) :=
  (reaches_of_runsWell (i := .bringup) rfl h).read.write

/-- R130: BRINGUP after both read-modify-writes. -/
theorem bringup_comes_to_clear (h : runsWell s ([.rd, .wr, .rd, .wr] ++ ks) = true) :
    Reaches .bringup s ks (.clearLatch s.plat.latchMode .finish)
      ((afterSensitivity s).arrive.storeReg Config.regIntEnable
        (setBits ((afterSensitivity s).sensor.reg Config.regIntEnable) 0b111 0 3)) 0 0 0 (bringupBus s) :=
  (bringup_comes_to_enable h).read.write

theorem afterSensitivity_reg_left {a : Byte} (h : sensorLeaves s.plat a = true) :
    (afterSensitivity s).sensor.reg a =
      if a = Config.regSensitivity then setBits (seenAt s 1 Config.regSensitivity) 6 4 3 else s.sensor.reg a := by
  have hstore := State.storeReg_arrive_reg_left (s := s.arriveN 3) h Config.regSensitivity
    (setBits (seenAt s 1 Config.regSensitivity) 6 4 3)
  rwa [State.arriveN_reg_left h] at hstore

/-- R130: what BRINGUP leaves in a register that no sensor step changes. -/
theorem bringup_reg_left {a : Byte} (h : sensorLeaves s.plat a = true) :
    (clearedSensor (afterEnable s)).reg a =
      if a = Config.regIntEnable then setBits ((afterSensitivity s).sensor.reg Config.regIntEnable) 0b111 0 3
      else (afterSensitivity s).sensor.reg a := by
  have hstore := State.storeReg_arrive_reg_left (s := (afterSensitivity s).arrive) h Config.regIntEnable
    (setBits ((afterSensitivity s).sensor.reg Config.regIntEnable) 0b111 0 3)
  rw [State.arrive_reg_left (s := afterSensitivity s) h] at hstore
  exact (clearedSensor_reg_left (s := afterEnable s) h).trans hstore

/-- R130: the postcondition on the two configuration registers; their other bits are as before. -/
theorem bringup_leaves_fields (hok : s.plat.ok = true) :
    (clearedSensor (afterEnable s)).reg Config.regSensitivity = setBits (s.sensor.reg Config.regSensitivity) 6 4 3 ∧
      (clearedSensor (afterEnable s)).reg Config.regIntEnable =
        setBits (s.sensor.reg Config.regIntEnable) 0b111 0 3 := by
  have hsens : sensorLeaves s.plat Config.regSensitivity = true :=
    Platform.ok_config_left hok (by decide) (by decide) (by decide)
  have henable : sensorLeaves s.plat Config.regIntEnable = true :=
    Platform.ok_config_left hok (by decide) (by decide) (by decide)
  constructor
  · rw [bringup_reg_left hsens, if_neg (by decide), afterSensitivity_reg_left hsens, if_pos rfl, seenAt_left hsens]
  · rw [bringup_reg_left henable, if_pos rfl, afterSensitivity_reg_left henable, if_neg (by decide)]

end

/-- Settles O19: the two read-modify-writes (`bringup_comes_to_enable`, `bringup_comes_to_clear`), then the latch clear
in either mode (`Reaches.clearLatch`, `clearFailures_of_reaches`); the fields by `bringup_leaves_fields`. -/
theorem bringupConfiguresAndClears : Obligations.BringupConfiguresAndClears := by
  refine ⟨plainWord_of_row (by decide) (by decide), fun s h => ?_, fun s h => ?_, fun s h => ?_, fun s h => ?_,
    fun s h => ?_, fun s => clearFailures_of_reaches rfl rfl fun ks => bringup_comes_to_clear⟩
  · rw [← List.append_nil (clearKinds _)] at h
    obtain ⟨t, hexec, hcompletes, hsensor⟩ := (bringup_comes_to_clear h).clearLatch.finish
    refine ⟨t, hexec, hcompletes, hsensor, justCleared_latch _, fun hok => ?_⟩
    obtain ⟨hsens, henable⟩ := bringup_leaves_fields hok
    change t.sensor = clearedSensor (afterEnable s) at hsensor
    rw [← hsensor] at hsens henable
    refine ⟨hsens, ?_, henable, ?_⟩
    · exact (congrArg (getBits · 4 3) hsens).trans (getBits_setBits _ 6 (by decide))
    · exact (congrArg (getBits · 0 3) henable).trans (getBits_setBits _ 0b111 (by decide))
  · obtain ⟨hruns, hfails⟩ := failsAt_iff.1 h
    exact (reaches_of_runsWell (i := .bringup) rfl hruns).failRead hfails
  · obtain ⟨hruns, hfails⟩ := failsAt_iff.1 h
    exact (reaches_of_runsWell (i := .bringup) rfl hruns).read.failWrite hfails
  · obtain ⟨hruns, hfails⟩ := failsAt_iff.1 h
    exact (bringup_comes_to_enable hruns).failRead hfails
  · obtain ⟨hruns, hfails⟩ := failsAt_iff.1 h
    exact (bringup_comes_to_enable hruns).read.failWrite hfails

/-! ### CHKS -/

/-- R110, R116: a field of width 1 is 1 exactly when its bit is set. -/
theorem getBits_one_eq_one_iff {b : Byte} {o : Nat} : getBits b o 1 = 1 ↔ b.getLsbD o = true := by
  have hbit : (getBits b o 1).getLsbD 0 = b.getLsbD o := by rw [getBits_getLsbD]; rfl
  rw [← hbit]
  rcases getBits_one b o with h | h <;> rw [h] <;> decide

theorem getBits_one_ne_one_iff {b : Byte} {o : Nat} : getBits b o 1 ≠ 1 ↔ b.getLsbD o = false := by
  rw [ne_eq, getBits_one_eq_one_iff, Bool.not_eq_true]

theorem scriptChksCal_set {p : Platform} {g : Byte} (h : g.getLsbD p.gsCalFailBit.val = true) (bc : Byte) :
    scriptChksCal p g bc =
      .read p.regCalStatus fun c =>
        .warn (.calibrationFailed (padsOf c)) (.result (bc ||| getBits c 0 3)) :=
  if_pos (getBits_one_eq_one_iff.2 h)

theorem scriptChksCal_clear {p : Platform} {g : Byte} (h : g.getLsbD p.gsCalFailBit.val = false) (bc : Byte) :
    scriptChksCal p g bc = .result bc :=
  if_neg (getBits_one_ne_one_iff.2 h)

section
variable {s : State} {ks : List BusKind}

/-- R131: CHKS after its general-status read, the base-count bit not set. -/
theorem chks_skips_bcOut
    (hbc : (seenAt s 1 Config.regGeneralStatus).getLsbD s.plat.gsBcOutBit.val = false)
    (h : runsWell s (.rd :: ks) = true) :
    Reaches .chks s ks (scriptChksCal s.plat (seenAt s 1 Config.regGeneralStatus) 0) (s.arriveN 2) 0 0 0
      [readOf Config.regGeneralStatus (seenAt s 1 Config.regGeneralStatus)] :=
  (reaches_of_runsWell (i := .chks) rfl h).read.of_eq (if_neg (getBits_one_ne_one_iff.2 hbc))

/-- R131: CHKS after its general-status read, the base-count bit set. -/
theorem chks_comes_to_bcOut
    (hbc : (seenAt s 1 Config.regGeneralStatus).getLsbD s.plat.gsBcOutBit.val = true)
    (h : runsWell s (.rd :: ks) = true) :
    Reaches .chks s ks
      (.read s.plat.regBcOut fun b => .warn (.baseCountOut (padsOf b))
        (scriptChksCal s.plat (seenAt s 1 Config.regGeneralStatus) (getBits b 0 3)))
      (s.arriveN 2) 0 0 0 [readOf Config.regGeneralStatus (seenAt s 1 Config.regGeneralStatus)] :=
  (reaches_of_runsWell (i := .chks) rfl h).read.of_eq (if_pos (getBits_one_eq_one_iff.2 hbc))

/-- R131: CHKS after its base-count read and the warning of it. -/
theorem chks_warns_bcOut
    (hbc : (seenAt s 1 Config.regGeneralStatus).getLsbD s.plat.gsBcOutBit.val = true)
    (h : runsWell s (.rd :: .rd :: ks) = true) :
    Reaches .chks s ks
      (scriptChksCal s.plat (seenAt s 1 Config.regGeneralStatus) (getBits (seenAt s 2 s.plat.regBcOut) 0 3))
      (s.arriveN 3) wBcOut (padsOf (seenAt s 2 s.plat.regBcOut)) 0
      [readOf s.plat.regBcOut (seenAt s 2 s.plat.regBcOut),
        readOf Config.regGeneralStatus (seenAt s 1 Config.regGeneralStatus)] :=
  (chks_comes_to_bcOut hbc h).read.warnBaseCount

end

/-- Settles O20: the first test's two ways (`chks_skips_bcOut`, `chks_warns_bcOut`), then the second test's
(`scriptChksCal_clear`, `scriptChksCal_set`). -/
theorem chksReportsFaultyPads : Obligations.ChksReportsFaultyPads := by
  refine ⟨plainWord_of_row (by decide) (by decide), fun s => ⟨fun hbc hcal h => ?_, fun hbc hcal h => ?_,
    fun hbc hcal h => ?_, fun hbc hcal h => ?_, fun h => ?_, fun hbc h => ?_, fun hbc hcal h => ?_,
    fun hbc hcal h => ?_⟩⟩
  · exact ((chks_skips_bcOut hbc h).of_eq (scriptChksCal_clear hcal 0)).result
  · exact ((chks_warns_bcOut hbc h).of_eq (scriptChksCal_clear hcal _)).result
  · have hwarned := ((chks_skips_bcOut hbc h).of_eq (scriptChksCal_set hcal 0)).read.warnCalibration
    exact (hwarned.of_eq (congrArg Script.result BitVec.zero_or)).result
  · exact ((chks_warns_bcOut hbc h).of_eq (scriptChksCal_set hcal _)).read.warnCalibration.result
  · obtain ⟨hruns, hfails⟩ := failsAt_iff.1 h
    exact (reaches_of_runsWell (i := .chks) rfl hruns).failRead hfails
  · obtain ⟨hruns, hfails⟩ := failsAt_iff.1 h
    exact (chks_comes_to_bcOut hbc hruns).failRead hfails
  · obtain ⟨hruns, hfails⟩ := failsAt_iff.1 h
    exact ((chks_skips_bcOut hbc hruns).of_eq (scriptChksCal_set hcal 0)).failRead hfails
  · obtain ⟨hruns, hfails⟩ := failsAt_iff.1 h
    exact ((chks_warns_bcOut hbc hruns).of_eq (scriptChksCal_set hcal _)).failRead hfails

/-! ### RECAL -/

/-- Settles O21: one blind write, then the completion; the byte is the one that starts a recalibration (R60). -/
theorem recalWritesTheFixedCommand : Obligations.RecalWritesTheFixedCommand := by
  refine ⟨plainWord_of_row (by decide) (by decide), fun s h => ?_, fun s h => ?_⟩
  · obtain ⟨t, hexec, hcompletes, hsensor⟩ := (reaches_of_runsWell (i := .recal) rfl h).write.finish
    exact ⟨t, hexec, hcompletes, hsensor, by simp [Sensor.store, State.arriveN, Config.calAllCmd]⟩
  · obtain ⟨hruns, hfails⟩ := failsAt_iff.1 h
    exact (reaches_of_runsWell (i := .recal) rfl hruns).failWrite hfails

end Sys2Proof.Machine
end

section
/-! SUPPORT. The words of a command with one typed argument (R82, R83). -/

namespace Sys2Proof

open Sys2Proof.Machine Sys2Proof.Claims

/-- R82: a word of a typed row that is not ILLEGAL has nothing but its opcode and a legal `B`. -/
theorem fieldsOf_of_typedRow {w : CmdWord} {b₀ : Byte} {bs : List Byte}
    (hrow : tableRow (w.extractLsb' 24 8) = some ⟨true, false, true, b₀ :: bs⟩) (hw : illegal w ≠ true) :
    ∃ b ∈ b₀ :: bs, fieldsOf w = typedFields (w.extractLsb' 24 8) b := by
  obtain ⟨ha, -, hoffWid, hrsv, hb⟩ :=
    (not_breaksRow_iff w _).1 fun hbreaks => hw ((assignedOpcodeIllegalExactlyByTable w _ hrow).2 hbreaks)
  obtain ⟨hoff, hwid⟩ := hoffWid rfl
  exact ⟨_, hb (List.cons_ne_nil _ _), (eq_typedFields_iff (fieldsOf w) _).2 ⟨ha rfl, rfl, hoff, hwid, hrsv⟩⟩

/-- R82, R83: the words of a command in a typed row whose legal `B` are those of its arguments. -/
theorem typedWord_of_row {α : Type} {opc b₀ : Byte} {bs : List Byte} {arg : α → Byte} {mk : α → Instr}
    (hrow : tableRow opc = some ⟨true, false, true, b₀ :: bs⟩) (hlegal : ∀ b ∈ b₀ :: bs, ∃ x, arg x = b)
    (hwf : ∀ x, (mk x).wellFormed = true) (henc : ∀ x, encodeFields (mk x) = typedFields opc (arg x)) :
    TypedWord opc arg mk := by
  refine ⟨fun x => encode_of_typedFields (henc x) ▸ decode_encode (hwf x), fun w hopc hne => by_contra fun hw => ?_⟩
  obtain ⟨b, hb, hfields⟩ := fieldsOf_of_typedRow (hopc ▸ hrow) hw
  obtain ⟨x, rfl⟩ := hlegal b hb
  exact hne x (by rw [← pack_fieldsOf w, hfields, hopc, typedWord_eq])

/-- R85, R88: the legal `B` of a pad set or a level code. -/
theorem exists_setWidth_eq_of_mem {b : Byte} (hb : b ∈ [0x00#8, 0x01, 0x02, 0x03, 0x04, 0x05, 0x06, 0x07]) :
    ∃ x : BitVec 3, x.setWidth 8 = b :=
  ⟨low3 b, (low3_iff.1 ⟨le_seven_iff_mem.2 hb, rfl⟩).symm⟩

/-- R90: the legal `B` of a boolean. -/
theorem exists_boolByte_eq_of_mem {b : Byte} (hb : b ∈ [0x00#8, 0x01]) : ∃ on : Bool, boolByte on = b :=
  ⟨b == 0x01, (boolLegal_iff.1 ⟨boolLegal_iff_mem.2 hb, rfl⟩).symm⟩

end Sys2Proof
end

section
/-! SUPPORT. Commands that read one field and commands that replace one: the getters, and the setters of sensitivity
and interrupt enable (R150 to R154, R201, R203, R205). -/

namespace Sys2Proof.Machine

open Sys2Proof Sys2Proof.Claims

/-- A command whose pseudocode is the read of one field. -/
theorem readsField_of_script {i : Instr} {reg : Platform → Byte} {o w : Nat} (hc : acceptCheck i = none)
    (hscr : ∀ p, scriptOf p i = .field (reg p) o w) : ReadsField i reg o w := by
  refine ⟨fun s h => ?_, fun s h => ?_⟩
  · exact ((reaches_of_runsWell hc h).of_eq (hscr s.plat)).read.result
  · obtain ⟨hruns, hfails⟩ := failsAt_iff.1 h
    exact ((reaches_of_runsWell hc hruns).of_eq (hscr s.plat)).failRead hfails

/-- A command whose pseudocode is the read-modify-write of one field, of a register that no sensor step changes. -/
theorem writesField_of_script {i : Instr} {a v : Byte} {o w : Nat} (hc : acceptCheck i = none)
    (hscr : ∀ p, scriptOf p i = .modify a v o w .finish)
    (hleft : ∀ p : Platform, p.ok = true → sensorLeaves p a = true) : WritesField i a v o w := by
  refine ⟨fun s h => ?_, fun s h => ?_, fun s h => ?_⟩
  · obtain ⟨t, hexec, hcompletes, hsensor⟩ :=
      ((reaches_of_runsWell hc h).of_eq (hscr s.plat)).read.write.finish
    refine ⟨t, hexec, hcompletes, hsensor, fun hok => ?_⟩
    have hseen : seenAt s 1 a = s.sensor.reg a := seenAt_left (hleft s.plat hok) 1
    have hstored : t.sensor.reg a = setBits (seenAt s 1 a) v o w := by
      rw [hsensor]
      exact (State.storeReg_arrive_reg_left (s := s.arriveN 3) (hleft s.plat hok) a _).trans (if_pos rfl)
    exact ⟨hseen, hseen ▸ hstored⟩
  · obtain ⟨hruns, hfails⟩ := failsAt_iff.1 h
    exact ((reaches_of_runsWell hc hruns).of_eq (hscr s.plat)).failRead hfails
  · obtain ⟨hruns, hfails⟩ := failsAt_iff.1 h
    exact ((reaches_of_runsWell hc hruns).of_eq (hscr s.plat)).read.failWrite hfails

/-- R42, R67: sensitivity is a configuration register. -/
theorem sensorLeaves_regSensitivity {p : Platform} (hok : p.ok = true) :
    sensorLeaves p Config.regSensitivity = true :=
  Platform.ok_config_left hok (by decide) (by decide) (by decide)

/-- R42, R67: interrupt enable is a configuration register. -/
theorem sensorLeaves_regIntEnable {p : Platform} (hok : p.ok = true) : sensorLeaves p Config.regIntEnable = true :=
  Platform.ok_config_left hok (by decide) (by decide) (by decide)

/-- Settles O22: each getter has an "all zero" row and is the read of one field (`readsField_of_script`). -/
theorem gettersReturnTheirField : Obligations.GettersReturnTheirField :=
  ⟨⟨plainWord_of_row (by decide) (by decide), readsField_of_script rfl fun _ => rfl⟩,
    ⟨plainWord_of_row (by decide) (by decide), readsField_of_script rfl fun _ => rfl⟩,
    ⟨plainWord_of_row (by decide) (by decide), readsField_of_script rfl fun _ => rfl⟩,
    ⟨plainWord_of_row (by decide) (by decide), readsField_of_script rfl fun _ => rfl⟩,
    ⟨plainWord_of_row (by decide) (by decide), readsField_of_script rfl fun _ => rfl⟩⟩

/-- Settles O23: the eight levels are the legal `B` of R82's row, and SSENS is the read-modify-write of one field of a
configuration register (`writesField_of_script`). -/
theorem ssensReplacesTheLevel : Obligations.SsensReplacesTheLevel :=
  ⟨typedWord_of_row rfl (fun _ => exists_setWidth_eq_of_mem) (fun _ => rfl) fun _ => rfl,
    fun _ => writesField_of_script rfl (fun _ => rfl) fun _ => sensorLeaves_regSensitivity⟩

/-- Settles O24: the pad sets and the booleans are the legal `B` of R82's rows, and both commands are the
read-modify-write of the field at bit 0 of 0x27 (`writesField_of_script`). -/
theorem interruptEnableSettersReplaceTheField : Obligations.InterruptEnableSettersReplaceTheField :=
  ⟨typedWord_of_row rfl (fun _ => exists_setWidth_eq_of_mem) (fun _ => rfl) fun _ => rfl,
    fun _ => writesField_of_script rfl (fun _ => rfl) fun _ => sensorLeaves_regIntEnable,
    typedWord_of_row rfl (fun _ => exists_boolByte_eq_of_mem) (fun _ => rfl) fun _ => rfl,
    fun _ => writesField_of_script rfl (fun _ => rfl) fun _ => sensorLeaves_regIntEnable⟩

end Sys2Proof.Machine
end

section
/-! SUPPORT. Pad status and the interrupt latch: CLRI, CHKT, the touch queries and the swipe placeholders (R170 to R178,
R206). -/

namespace Sys2Proof.Machine

open Sys2Proof Sys2Proof.Claims

/-! ### Two latch clears in a row -/

/-- R170: the `RMW` clear keeps bits 7 to 1. -/
theorem setBits_zero_bit0 (b : Byte) : setBits b 0 0 1 = b &&& 0xFE := by simp [setBits, mask]

/-- R170: a latch clear writes what the one before it wrote, where main control still holds that but for the latch. -/
theorem clearByte_again {u v : State} (hmode : v.plat.latchMode = u.plat.latchMode)
    (hmain : v.sensor.reg Config.regMainControl &&& 0xFE = clearByte u &&& 0xFE) : clearByte v = clearByte u := by
  unfold clearByte at hmain ⊢
  rw [hmode]
  cases hm : u.plat.latchMode with
  | blindZero => rfl
  | rmw =>
    simp only [hm, setBits_zero_bit0, BitVec.and_assoc, BitVec.and_self] at hmain ⊢
    exact hmain

theorem justCleared_main (u : State) : (justCleared u).sensor.reg Config.regMainControl = clearByte u := by
  rw [justCleared, State.storeReg_sensor, Sensor.reg_store, if_pos rfl]

theorem justCleared_plat (u : State) : (justCleared u).plat = u.plat := by
  unfold justCleared clearWriteAt
  cases u.plat.latchMode <;> rfl

/-- R67, log entry 20: such a register is just after a latch clear as it was before it. -/
theorem justCleared_reg_left {u : State} {a : Byte} (h : sensorLeaves u.plat a = true) :
    (justCleared u).sensor.reg a = u.sensor.reg a := by
  rw [← justCleared_plat] at h
  exact (State.arrive_reg_left h).symm.trans (clearedSensor_reg_left (justCleared_plat u ▸ h))

/-! ### Main control over sensor steps -/

/-- R65, R67: sensor steps none of which sets the latch leave main control. -/
theorem sensorSteps_main_of_latchSet_eq_false {p : Platform} (hok : p.ok = true) {ds : List SensorDraw} {z : Sensor}
    (hz : z.latch = false) (h : latchSet p ds z = false) :
    (sensorSteps p ds z).reg Config.regMainControl = z.reg Config.regMainControl := by
  induction ds generalizing z with
  | nil => rfl
  | cons d ds ih =>
    simp only [latchSet, hz, Bool.not_false, Bool.true_and, Bool.or_eq_false_iff] at h
    obtain ⟨hstep, hrest⟩ := h
    have hcause : (pressed p z (Sensor.redrawAll p d z) || d.latch) = false := by
      simpa [sensorStep_latch hok, hz] using hstep
    exact (ih hstep hrest).trans ((sensorStep_main hok d z).trans (by rw [hcause]; rfl))

theorem clearedSensor_main_of_staysClear {u : State} (hok : u.plat.ok = true) (h : staysClear u) :
    (clearedSensor u).reg Config.regMainControl = clearByte u := by
  rw [← justCleared_main, clearedSensor, State.arrive_sensor, justCleared_plat, Env.next_eq]
  exact sensorSteps_main_of_latchSet_eq_false hok (justCleared_latch u) h

theorem State.arriveN_main_high {s : State} (hok : s.plat.ok = true) (n : Nat) :
    (s.arriveN n).sensor.reg Config.regMainControl &&& 0xFE = s.sensor.reg Config.regMainControl &&& 0xFE := by
  induction n generalizing s with
  | zero => rfl
  | succ n ih => exact (ih (s := s.arrive) hok).trans (sensorSteps_main_high hok _ _)

/-! ### Where no sensor step falls -/

theorem State.arrive_sensor_of_quiet {s : State} (h : (s.env.slotAt 0).sensor = []) : s.arrive.sensor = s.sensor := by
  rw [State.arrive_sensor, Env.next_eq, h]
  rfl

theorem State.arriveN_slotAt (n j : Nat) (s : State) : (s.arriveN n).env.slotAt j = s.env.slotAt (j + n) := by
  induction n generalizing s with
  | zero => rfl
  | succ n ih => exact (ih s.arrive).trans (s.env.slotAt_advance (j + n))

theorem State.arriveN_sensor_of_quiet {s : State} {n : Nat} (h : ∀ j < n, (s.env.slotAt j).sensor = []) :
    (s.arriveN n).sensor = s.sensor := by
  induction n generalizing s with
  | zero => rfl
  | succ n ih =>
    have hrest : (s.arrive.arriveN n).sensor = s.arrive.sensor := ih fun j hj => by
      rw [State.arrive_env, Env.slotAt_advance]
      exact h (j + 1) (Nat.succ_lt_succ hj)
    exact hrest.trans (State.arrive_sensor_of_quiet (h 0 n.succ_pos))

theorem clearedSensor_of_quiet {s : State} (hq : quiet s longest = true) :
    clearedSensor (s.arriveN 2) = (justCleared (s.arriveN 2)).sensor := by
  refine State.arrive_sensor_of_quiet ?_
  unfold justCleared clearWriteAt
  cases (s.arriveN 2).plat.latchMode with
  | blindZero => exact (congrArg Slot.sensor (s.arriveN_slotAt 2 0)).trans (quiet_iff.1 hq 2 (by decide))
  | rmw => exact (congrArg Slot.sensor (s.arriveN_slotAt 3 0)).trans (quiet_iff.1 hq 3 (by decide))

/-! ### CLRI -/

/-- R171: CLRI is one latch clear. -/
theorem clri_comes_to_clear {s : State} (ks : List BusKind) (h : runsWell s ks = true) :
    Reaches .clri s ks (.clearLatch s.plat.latchMode .finish) (s.arriveN 1) 0 0 0 [] :=
  reaches_of_runsWell (i := .clri) rfl h

theorem clri_completes {s : State} (h : runsWell s (clearKinds s.plat.latchMode) = true) :
    ∃ t, exec .clri s = .next t ∧ Completes s t none 0 0 0 (clearBus (s.arriveN 2)) ∧
      t.sensor = clearedSensor (s.arriveN 2) := by
  rw [← List.append_nil (clearKinds _)] at h
  obtain ⟨t, hexec, hcompletes, hsensor⟩ := (clri_comes_to_clear _ h).clearLatch.finish
  exact ⟨t, hexec, List.append_nil (clearBus _) ▸ hcompletes, hsensor⟩

theorem clri_sensor {s t : State} (h : runsWell s (clearKinds s.plat.latchMode) = true)
    (hexec : exec .clri s = .next t) : t.sensor = clearedSensor (s.arriveN 2) := by
  obtain ⟨t', hexec', -, hsensor⟩ := clri_completes h
  cases hexec.symm.trans hexec'
  exact hsensor

/-- R171: the second of two clears writes the byte that main control holds after the first, if the sensor steps before
it change bit 0 at most. -/
theorem clri_again_main {s t : State} (hexec : exec .clri s = .next t)
    (hmain : t.sensor.reg Config.regMainControl = clearByte (s.arriveN 2))
    (hhigh : (t.arriveN 2).sensor.reg Config.regMainControl &&& 0xFE = t.sensor.reg Config.regMainControl &&& 0xFE) :
    (justCleared (t.arriveN 2)).sensor.reg Config.regMainControl = t.sensor.reg Config.regMainControl := by
  have hplat : (t.arriveN 2).plat = (s.arriveN 2).plat := (exec_frame hexec).plat
  rw [justCleared_main, hmain]
  exact clearByte_again (congrArg Platform.latchMode hplat) (hhigh.trans (congrArg (· &&& 0xFE) hmain))

/-- R171, where no sensor step falls. -/
theorem clri_idempotent_of_quiet {s t u : State} (hs : runsWell s (clearKinds s.plat.latchMode) = true)
    (ht : runsWell t (clearKinds t.plat.latchMode) = true) (hst : exec .clri s = .next t)
    (htu : exec .clri t = .next u) (hqs : quiet s longest = true) (hqt : quiet t longest = true) (a : Byte) :
    u.sensor.reg a = t.sensor.reg a := by
  by_cases ha : a = Config.regMainControl
  · have hmain : t.sensor.reg Config.regMainControl = clearByte (s.arriveN 2) := by
      rw [clri_sensor hs hst, clearedSensor_of_quiet hqs, justCleared_main]
    have hsame : (t.arriveN 2).sensor = t.sensor :=
      State.arriveN_sensor_of_quiet fun j hj => quiet_iff.1 hqt j (hj.trans (by decide))
    rw [ha, clri_sensor ht htu, clearedSensor_of_quiet hqt]
    exact clri_again_main hst hmain (by rw [hsame])
  · refine exec_keeps_reg htu (by simpa [storedRegs] using ha) fun j hj z => ?_
    rw [quiet_iff.1 hqt j hj]
    rfl

/-- R171, on main control with any sensor steps, none of which sets the latch. -/
theorem clri_idempotent_main {s t u : State} (hs : runsWell s (clearKinds s.plat.latchMode) = true)
    (ht : runsWell t (clearKinds t.plat.latchMode) = true) (hst : exec .clri s = .next t)
    (htu : exec .clri t = .next u) (hok : s.plat.ok = true) (hclear : staysClear (s.arriveN 2)) :
    (justCleared (t.arriveN 2)).sensor.reg Config.regMainControl = t.sensor.reg Config.regMainControl ∧
      (staysClear (t.arriveN 2) →
        u.sensor.reg Config.regMainControl = t.sensor.reg Config.regMainControl) := by
  have hokt : t.plat.ok = true := by rwa [(exec_frame hst).plat]
  have hmain : t.sensor.reg Config.regMainControl = clearByte (s.arriveN 2) := by
    rw [clri_sensor hs hst]
    exact clearedSensor_main_of_staysClear (u := s.arriveN 2) hok hclear
  have hagain := clri_again_main hst hmain (State.arriveN_main_high hokt 2)
  refine ⟨hagain, fun hclear' => ?_⟩
  rw [clri_sensor ht htu, ← hagain, justCleared_main]
  exact clearedSensor_main_of_staysClear (u := t.arriveN 2) hokt hclear'

/-- R171, R67 (log entry 20), on a register that no sensor step changes. -/
theorem clri_idempotent_left {s t u : State} {a : Byte} (hst : exec .clri s = .next t)
    (htu : exec .clri t = .next u) (hleft : sensorLeaves s.plat a = true) :
    (justCleared (t.arriveN 2)).sensor.reg a = t.sensor.reg a ∧ u.sensor.reg a = t.sensor.reg a := by
  have hleft' : sensorLeaves t.plat a = true := by rwa [(exec_frame hst).plat]
  have hmain : a ∉ storedRegs t.plat .clri := by
    simp only [storedRegs, List.mem_singleton]
    rintro rfl
    simp [sensorLeaves] at hleft
  exact ⟨(justCleared_reg_left (u := t.arriveN 2) hleft').trans (State.arriveN_reg_left hleft' 2),
    configurationOnlyByItsSetter _ _ _ _ htu hleft' hmain⟩

/-- Settles O26: CLRI is one latch clear (`clri_comes_to_clear`); the second one writes the byte that main control
holds (`clri_again_main`), as the sensor steps before it change bit 0 at most. -/
theorem clriClearsTheLatch : Obligations.ClriClearsTheLatch := by
  refine ⟨plainWord_of_row (by decide) (by decide), fun s h => ?_, fun s => clearFailures_of_reaches rfl rfl
    clri_comes_to_clear, fun s t u hs ht hst htu =>
      ⟨clri_idempotent_of_quiet hs ht hst htu, fun hok hclear a ha => ?_⟩⟩
  · obtain ⟨t, hexec, hcompletes, hsensor⟩ := clri_completes h
    exact ⟨t, hexec, hcompletes, hsensor, justCleared_latch _⟩
  · rcases ha with rfl | hleft
    · exact clri_idempotent_main hs ht hst htu hok hclear
    · obtain ⟨hjust, hend⟩ := clri_idempotent_left hst htu hleft
      exact ⟨hjust, fun _ => hend⟩

/-! ### CHKT -/

/-- Settles O27: CHKT's row is "all zero", and it is the read of one field (`readsField_of_script`). -/
theorem chktReadsWithoutClearing : Obligations.ChktReadsWithoutClearing :=
  ⟨plainWord_of_row (by decide) (by decide), readsField_of_script rfl fun _ => rfl⟩

/-! ### The touch queries -/

/-- R176: a command whose pseudocode is one read and the answer to it. -/
theorem answersAndClears_of_script {i : Instr} {reg : Platform → Byte} {positive : Byte → Bool}
    {ans : Byte → Byte} (hc : acceptCheck i = none)
    (hscr : ∀ p, scriptOf p i = .read (reg p) fun b => .answer p.latchMode (positive b) (ans b)) :
    AnswersAndClears i reg positive ans := by
  have begun {s : State} {ks : List BusKind} (h : runsWell s ks = true) :=
    (reaches_of_runsWell hc h).of_eq (hscr s.plat)
  refine ⟨fun s hneg h => ?_, fun s hpos h => ?_, fun s h => ?_, fun s hpos => clearFailures_of_reaches rfl rfl
    fun ks h => (begun h).read.of_eq (if_pos hpos)⟩
  · exact ((begun h).read.of_eq (if_neg (Bool.eq_false_iff.1 hneg))).result
  · rw [← List.append_nil (clearKinds _)] at h
    exact ((begun h).read.of_eq (if_pos hpos)).clearLatch.result
  · obtain ⟨hruns, hfails⟩ := failsAt_iff.1 h
    exact (begun hruns).failRead hfails

/-- Settles O28: GETT is the read of touch status and its answer (`answersAndClears_of_script`). -/
theorem gettClearsIffAnyPadTouched : Obligations.GettClearsIffAnyPadTouched :=
  ⟨plainWord_of_row (by decide) (by decide), answersAndClears_of_script rfl fun _ => rfl⟩

/-- R90: a field of width 1 as the boolean of its bit. -/
theorem getBits_one_eq_ite (b : Byte) (o : Nat) : getBits b o 1 = if b.getLsbD o then 0x01 else 0x00 := by
  split
  · rename_i h
    exact getBits_one_eq_one_iff.2 h
  · rename_i h
    exact (getBits_one b o).resolve_right fun h1 => h (getBits_one_eq_one_iff.1 h1)

/-- R174, R206: a touch query whose answer is one bit of the byte read. -/
theorem answersAndClears_of_bit {i : Instr} {a : Byte} {o : Nat} (hc : acceptCheck i = none)
    (hscr : ∀ p, scriptOf p i = .read a fun g => .answer p.latchMode (getBits g o 1 == 1) (getBits g o 1)) :
    AnswersAndClears i (fun _ => a) (fun g => g.getLsbD o) (fun g => if g.getLsbD o then 0x01 else 0x00) := by
  have hbit (g : Byte) : (getBits g o 1 == 1) = g.getLsbD o :=
    Bool.eq_iff_iff.2 (beq_iff_eq.trans getBits_one_eq_one_iff)
  exact answersAndClears_of_script hc fun p =>
    (hscr p).trans (congrArg (Script.read a) (funext fun g => by rw [hbit, getBits_one_eq_ite]))

/-- Settles O29: both commands are the read of general status and the answer of its bit (`answersAndClears_of_bit`). -/
theorem generalStatusQueriesClearIffSet : Obligations.GeneralStatusQueriesClearIffSet :=
  ⟨⟨plainWord_of_row (by decide) (by decide), answersAndClears_of_bit rfl fun _ => rfl⟩,
    ⟨plainWord_of_row (by decide) (by decide), answersAndClears_of_bit rfl fun _ => rfl⟩⟩

/-- R87: the legal `B` of a pad selector. -/
theorem exists_bit_eq_of_mem {b : Byte} (hb : b ∈ [0x01#8, 0x02, 0x04]) : ∃ x : Pad, x.bit.setWidth 8 = b := by
  simp only [List.mem_cons, List.not_mem_nil, or_false] at hb
  rcases hb with rfl | rfl | rfl
  · exact ⟨.left, rfl⟩
  · exact ⟨.middle, rfl⟩
  · exact ⟨.right, rfl⟩

/-- R86: a pad's membership in the touched set, on the byte read. -/
theorem has_padsOf (b : Byte) (x : Pad) : ((getBits b 0 3 &&& zext8 x.bit) != 0) = PadSet.has (padsOf b) x := by
  have pads : ∀ p : PadSet, ((zext8 p &&& zext8 x.bit) != 0) = PadSet.has p x := by cases x <;> decide
  rw [getBits_eq_zext8_padsOf, pads]

/-- Settles O30: the pads' bits are the legal `B` of R82's row, and ISPT is the read of touch status and its answer
(`answersAndClears_of_script`), the pad's membership in the touched set (`has_padsOf`). -/
theorem isptClearsIffThePadIsTouched : Obligations.IsptClearsIffThePadIsTouched := by
  refine ⟨typedWord_of_row rfl (fun _ => exists_bit_eq_of_mem) PadSet.oneHot_bit fun _ => rfl,
    fun x => answersAndClears_of_script rfl fun p => ?_⟩
  simp only [← has_padsOf]
  rfl

/-! ### ISLS and ISRS -/

/-- R236: the warning of the placeholders. -/
theorem Reaches.warnNotImplemented {i : Instr} {s v : State} {ks : List BusKind} {rest : Script} {w : BitVec 3}
    {bc cal : PadSet} {bus : List BusEvent} (h : Reaches i s ks (.warn .notImplemented rest) v w bc cal bus) :
    Reaches i s ks rest v (w ||| wNotImpl) bc cal bus := by
  obtain ⟨b, tr, hruns, hunder, hslots, hanswers, hend⟩ := h
  exact ⟨b.applyWarning _, tr, hruns, { hunder with warn := congrArg (· ||| wNotImpl) hunder.warn }, hslots,
    hanswers, hend⟩

/-- Settles O31: both are the warning and the result, with no transaction before them. -/
theorem swipePlaceholdersWarnAndAnswerFalse : Obligations.SwipePlaceholdersWarnAndAnswerFalse :=
  ⟨plainWord_of_row (by decide) (by decide), plainWord_of_row (by decide) (by decide), fun _ h =>
    ⟨(reaches_of_runsWell (i := .isls) rfl h).warnNotImplemented.result,
      (reaches_of_runsWell (i := .isrs) rfl h).warnNotImplemented.result⟩⟩

end Sys2Proof.Machine
end

section
/-! SUPPORT. The registers that a command's transactions name (R51, R176). -/

namespace Sys2Proof.Machine

open Sys2Proof Sys2Proof.Claims

/-- From `s` to `t` the bus history has grown by transactions that do not name register `r`. -/
def GrowsWithout (r : Byte) (s t : State) : Prop :=
  ∃ new, t.trace.bus = new ++ s.trace.bus ∧ ∀ e ∈ new, eventReg e ≠ some r

/-- The pseudocode issues no transaction to register `r`. -/
def Script.Avoids (r : Byte) (scr : Script) : Prop := scr.Allows (· ≠ r) (fun a _ => a ≠ r)

section
variable {r : Byte} {s u t : State}

theorem GrowsWithout.of_bus_eq (h : t.trace.bus = s.trace.bus) : GrowsWithout r s t := ⟨[], h, nofun⟩

theorem GrowsWithout.cons (h : GrowsWithout r s u) {e : BusEvent} (he : eventReg e ≠ some r)
    (hbus : t.trace.bus = e :: u.trace.bus) : GrowsWithout r s t := by
  obtain ⟨new, hnew, hwithout⟩ := h
  exact ⟨e :: new, by rw [hbus, hnew, List.cons_append], List.forall_mem_cons.2 ⟨he, hwithout⟩⟩

/-- A pseudocode's run issues only the transactions that the pseudocode holds. -/
theorem runScript_growsWithout {scr : Script} (h : scr.Avoids r) (hs : GrowsWithout r s u) :
    GrowsWithout r s (runScript scr u) := by
  have other {a : Byte} (ha : a ≠ r) : some a ≠ some r := fun e => ha (Option.some.inj e)
  exact runScript_induction (P := GrowsWithout r s) (Q := GrowsWithout r s)
    (hread := fun a _ ha hu _ _ => hu.cons (e := .read Config.devAddr a _) (other ha) rfl)
    (hwrite := fun a v _ ha hu _ _ => hu.cons (e := .write Config.devAddr a v true) (other ha) rfl)
    (hwarn := fun _ _ hu => hu)
    (hreset := fun _ hu _ => hu)
    (hfailRead := fun a _ ha hu _ _ => hu.cons (e := .read Config.devAddr a none) (other ha) rfl)
    (hfailWrite := fun a v w ha hu _ _ => hu.cons (e := .write Config.devAddr a v false) (other ha)
      (by cases h : w.env.next.landed <;> rfl))
    (hresult := fun _ _ hu _ => hu)
    (hfinish := fun _ hu _ => hu)
    scr h u hs

theorem exec_growsWithout {i : Instr} (hscr : (scriptOf s.plat i).Avoids r) (h : exec i s = .next t) :
    GrowsWithout r s t := by
  obtain ⟨-, ⟨e, -, rfl⟩ | ⟨-, -, rfl⟩ | ⟨-, -, rfl⟩⟩ := exec_cases h
  · exact .of_bus_eq (by simp)
  · exact runScript_growsWithout hscr (.of_bus_eq (by simp))
  · exact .of_bus_eq (by simp)

end

/-- R131, R8: CHKS's second test reads calibration status at most. -/
theorem scriptChksCal_avoids_main {p : Platform} (hcal : p.regCalStatus ≠ Config.regMainControl) (g bc : Byte) :
    (scriptChksCal p g bc).Avoids Config.regMainControl := by
  unfold scriptChksCal
  split
  · exact ⟨hcal, fun _ => trivial⟩
  · trivial

/-- R176: the pseudocode of the other commands does not name main control, from which R8 keeps the OPEN registers
apart. -/
theorem scriptOf_avoids_main {p : Platform} (hok : p.ok = true) {i : Instr} (hi : ¬ clearsTheLatch i) :
    (scriptOf p i).Avoids Config.regMainControl := by
  obtain ⟨htouch, hbcOut, hcal, hactivate⟩ := Platform.ok_fixed_ne hok (a := Config.regMainControl) (by decide)
  have modify {a v : Byte} {o w : Nat} (ha : a ≠ Config.regMainControl) :
      (Script.modify a v o w .finish).Avoids Config.regMainControl := ⟨ha, fun _ => ⟨ha, trivial⟩⟩
  cases i with
  | clri | bringup | gett | ist | ispt | ispb => exact absurd trivial hi
  | getb | setb | isls | isrs => trivial
  | gsens | gie | gpbp | gpbt | gpbe => exact ⟨by decide, fun _ => trivial⟩
  | chkt => exact ⟨htouch.symm, fun _ => trivial⟩
  | ssens | siep | siea | spbp | spbt | spbe => exact modify (by decide)
  | recal => exact ⟨hactivate.symm, trivial⟩
  | chks =>
    refine ⟨by decide, fun g => ?_⟩
    dsimp only
    split
    · exact ⟨hbcOut.symm, fun _ => scriptChksCal_avoids_main hcal.symm g _⟩
    · exact scriptChksCal_avoids_main hcal.symm g _

/-- Settles O40: the pseudocode of the other commands does not name main control (`scriptOf_avoids_main`), and a command
issues only what its pseudocode holds (`exec_growsWithout`). -/
theorem onlyLatchCommandsTouchMainControl : Obligations.OnlyLatchCommandsTouchMainControl := by
  intro i s t new hok hexec hbus hi
  obtain ⟨new', hbus', hwithout⟩ := exec_growsWithout (scriptOf_avoids_main hok hi) hexec
  rwa [List.append_cancel_right (hbus.symm.trans hbus')]

end Sys2Proof.Machine
end

section
/-! SUPPORT. The setters of the power button's pads, hold time and enable, each the read-modify-write of one field
(R200, R202, R204). -/

namespace Sys2Proof.Machine

open Sys2Proof Sys2Proof.Claims

/-- R89: the legal `B` of a time code. -/
theorem exists_timeByte_eq_of_mem {b : Byte} (hb : b ∈ [0x00#8, 0x01, 0x02, 0x03]) :
    ∃ time : BitVec 2, time.setWidth 8 = b :=
  ⟨b.extractLsb' 0 2, (low2_iff.1 ⟨le_three_iff_mem.2 hb, rfl⟩).symm⟩

/-- R42, R67: the power button's pads are a configuration register. -/
theorem sensorLeaves_regPb {p : Platform} (hok : p.ok = true) : sensorLeaves p Config.regPb = true :=
  Platform.ok_config_left hok (by decide) (by decide) (by decide)

/-- R42, R67: the power button's hold time and enable are a configuration register. -/
theorem sensorLeaves_regPbConfig {p : Platform} (hok : p.ok = true) : sensorLeaves p Config.regPbConfig = true :=
  Platform.ok_config_left hok (by decide) (by decide) (by decide)

/-- Settles O25: the pad sets, time codes and booleans are the legal `B` of R82's rows, and the commands are the
read-modify-writes of the field at bit 0 of 0x60 and of the two fields of 0x61 (`writesField_of_script`). -/
theorem powerButtonSettersReplaceTheirField : Obligations.PowerButtonSettersReplaceTheirField :=
  ⟨typedWord_of_row rfl (fun _ => exists_setWidth_eq_of_mem) (fun _ => rfl) fun _ => rfl,
    fun _ => writesField_of_script rfl (fun _ => rfl) fun _ => sensorLeaves_regPb,
    typedWord_of_row rfl (fun _ => exists_timeByte_eq_of_mem) (fun _ => rfl) fun _ => rfl,
    fun _ => writesField_of_script rfl (fun _ => rfl) fun _ => sensorLeaves_regPbConfig,
    typedWord_of_row rfl (fun _ => exists_boolByte_eq_of_mem) (fun _ => rfl) fun _ => rfl,
    fun _ => writesField_of_script rfl (fun _ => rfl) fun _ => sensorLeaves_regPbConfig⟩

end Sys2Proof.Machine
end

section
/-! SUPPORT. How a command ends that meets an error: an ILLEGAL word in its accept step, a failing transaction at that
transaction (R231, R233). -/

namespace Sys2Proof.Machine

open Sys2Proof Sys2Proof.Claims

/-! ### An ILLEGAL word -/

/-- R26, R267: the word the host presents in IDLE, with no connect in progress, is the one the step accepts. -/
theorem step_present {s : State} {w : CmdWord} {rest : List HostMove} (hp : s.block.phase = .idle)
    (hb : Settled s.host.boot) (hm : s.host.moves = .present w :: rest) :
    step s = acceptWord w { s with host := { s.host with moves := rest } } := by
  have hc : s.cmd = some w := by
    rw [cmd_of_idle hp, HostAgent.word_settled hb, hm]
    rfl
  rw [(step_cmd hc).2, taken_settled hb, State.popMove, hm]
  rfl

/-- R231: the accept step of an ILLEGAL word raises IllegalCommand, with no transaction. -/
theorem acceptWord_illegal_fails {s : State} {w : CmdWord} (hi : illegal w = true)
    (hr : (s.env.slotAt 0).reset = false) :
    ∃ t, acceptWord w s = .next t ∧ Fails s t (.illegalCommand w) 0 0 0 [] ∧ t.sensor = (s.arriveN 1).sensor :=
  ⟨_, acceptWord_illegal hi s, (Underway.accept hr).raiseError _, s.accept_sensor⟩

/-- Settles O15: the step accepts the presented word (`step_present`), and the accept step of an ILLEGAL word only
raises IllegalCommand (`acceptWord_illegal_fails`). -/
theorem illegalWordRaisesIllegalCommand : Obligations.IllegalWordRaisesIllegalCommand := by
  intro s w rest hp hr hb hm hi
  obtain ⟨t, ht, hfails, hsensor⟩ :=
    acceptWord_illegal_fails (s := { s with host := { s.host with moves := rest } }) hi hr
  exact ⟨t, (step_present hp hb hm).trans ht, hfails, hfails.err, hfails.errInfo, hsensor⟩

/-! ### A failing transaction -/

/-- From `s` to `t` the bus history has grown by transactions that all succeeded, and `t` holds no TransportError. -/
def NoneFailed (s t : State) : Prop :=
  ∃ new, t.trace.bus = new ++ s.trace.bus ∧ new.all eventOk = true ∧ t.block.err ≠ 3

/-- R233: from `s` to `t` the bus history has grown by transactions of which only the last failed, and the error that `t`
holds names it. -/
def LastFailed (s t : State) : Prop :=
  ∃ e ok, t.trace.bus = e :: ok ++ s.trace.bus ∧ eventOk e = false ∧ ok.all eventOk = true ∧ t.block.err = 3 ∧
    t.block.errInfo = (eventError e).info ∧ t.block.resultValid = false

section
variable {s u t : State}

theorem NoneFailed.of_bus_eq (hbus : t.trace.bus = s.trace.bus) (herr : t.block.err ≠ 3) : NoneFailed s t :=
  ⟨[], hbus, rfl, herr⟩

/-- Only the bus history and the error code matter. -/
theorem NoneFailed.congr (h : NoneFailed s u) (hbus : t.trace.bus = u.trace.bus) (herr : t.block.err = u.block.err) :
    NoneFailed s t := by
  obtain ⟨new, hnew, hok, hne⟩ := h
  exact ⟨new, hbus.trans hnew, hok, herr ▸ hne⟩

/-- R260: a reset that abandons the command issues no transaction and leaves no error. -/
theorem NoneFailed.abandon (h : NoneFailed s u) : NoneFailed s u.abandon := by
  obtain ⟨new, hnew, hok, -⟩ := h
  exact ⟨new, hnew, hok, show Block.reset.err ≠ 3 by decide⟩

/-- R52, R53: one more transaction that succeeds. -/
theorem NoneFailed.cons (h : NoneFailed s u) {e : BusEvent} (he : eventOk e = true)
    (hbus : t.trace.bus = e :: u.trace.bus) (herr : t.block.err = u.block.err) : NoneFailed s t := by
  obtain ⟨new, hnew, hok, hne⟩ := h
  exact ⟨e :: new, by rw [hbus, hnew, List.cons_append], by simp [he, hok], herr ▸ hne⟩

/-- R54, R55: a failing transaction, and the TransportError that names it. -/
theorem NoneFailed.raiseError (h : NoneFailed s u) {e : BusEvent} (he : eventOk e = false)
    (hcode : (eventError e).code = 3) (hbus : t.trace.bus = e :: u.trace.bus) :
    LastFailed s (t.raiseError (eventError e)) := by
  obtain ⟨new, hnew, hok, -⟩ := h
  exact ⟨e, new, by rw [State.raiseError_trace, hbus, hnew, List.cons_append], he, hok, hcode, rfl, rfl⟩

end

/-- R233: a command's pseudocode, however it ends, issues nothing after its first failing transaction. -/
theorem runScript_noneFailed_or_lastFailed {R : Byte → Prop} {W : Byte → Byte → Prop} {scr : Script}
    (hall : scr.Allows R W) {s u : State} (hu : NoneFailed s u) :
    NoneFailed s (runScript scr u) ∨ LastFailed s (runScript scr u) :=
  runScript_induction (P := NoneFailed s) (Q := fun t => NoneFailed s t ∨ LastFailed s t)
    (hread := fun a _ _ h _ _ => h.cons (e := .read Config.devAddr a (some _)) rfl rfl rfl)
    (hwrite := fun a v _ _ h _ _ => h.cons (e := .write Config.devAddr a v true) rfl rfl rfl)
    (hwarn := fun w v h => h.congr rfl (v.block.applyWarning_err w))
    (hreset := fun _ h _ => .inl (h.congr rfl rfl).abandon)
    (hfailRead := fun a _ _ h _ _ => .inr (h.raiseError (e := .read Config.devAddr a none) rfl rfl rfl))
    (hfailWrite := fun a v w _ h _ _ => .inr (h.raiseError (e := .write Config.devAddr a v false) rfl rfl
      (by cases hl : w.env.next.landed <;> rfl)))
    (hresult := fun _ _ h _ => .inl (h.congr rfl rfl))
    (hfinish := fun _ h _ => .inl (h.congr rfl rfl))
    scr hall u hu

/-- R113: the only error an accept step finds by its own check is FieldRange. -/
theorem fieldRange_of_acceptCheck {i : Instr} {e : Error} (h : acceptCheck i = some e) :
    ∃ off wid, e = .fieldRange off wid := by
  rcases acceptCheck_cases i with hn | ⟨off, wid, -, hs⟩
  · simp [hn] at h
  · exact ⟨off, wid, Option.some.inj (h.symm.trans hs)⟩

/-- R233: a command of either grain, whether or not a reset abandons it. -/
theorem exec_noneFailed_or_lastFailed {i : Instr} {s t : State} (h : exec i s = .next t) :
    NoneFailed s t ∨ LastFailed s t := by
  have hbegun : NoneFailed s (s.accept.progress i 0 []) := .of_bus_eq (by simp) (show (0 : BitVec 4) ≠ 3 by decide)
  obtain ⟨-, ⟨e, hc, rfl⟩ | ⟨-, -, rfl⟩ | ⟨-, -, rfl⟩⟩ := exec_cases h
  · obtain ⟨off, wid, rfl⟩ := fieldRange_of_acceptCheck hc
    exact .inl (.of_bus_eq (by simp) (show (2 : BitVec 4) ≠ 3 by decide))
  · exact runScript_noneFailed_or_lastFailed (scriptOf_allows s.plat i) hbegun
  · exact .inl hbegun

/-- Settles O36: the accept step issues no transaction, and the pseudocode none after the first that fails
(`exec_noneFailed_or_lastFailed`). -/
theorem transportErrorIsPrecise : Obligations.TransportErrorIsPrecise := by
  intro i s t h _ _
  rcases exec_noneFailed_or_lastFailed h with ⟨new, hbus, hok, herr⟩ | ⟨e, ok, hbus, hlast⟩
  · exact ⟨new, hbus, .inl ⟨hok, herr⟩⟩
  · exact ⟨e :: ok, hbus, .inr ⟨e, ok, rfl, hlast⟩⟩

end Sys2Proof.Machine
end

section
/-! SUPPORT. The block reset in every turn, and a command while BUSY (R260, R261, R267). -/

namespace Sys2Proof.Machine

open Sys2Proof Sys2Proof.Claims

/-! ### A command while BUSY -/

/-- Settles O16: a command accepted needs an IDLE block (`exec_outcome`). -/
theorem commandWhileBusyIsRefused : Obligations.CommandWhileBusyIsRefused := by
  intro i s hp
  rcases exec_outcome i s with ⟨-, hrefused⟩ | ⟨hready, -⟩
  · exact hrefused
  · exact absurd (State.cmdReady_iff.1 hready) hp

/-! ### A reset in BUSY, and steps in IDLE that accept no word -/

/-- R260: a reset in BUSY abandons the command; the host has no turn in its slot (log entry 12). -/
theorem step_busy_reset {s : State} (hp : s.block.phase ≠ .idle) (hr : (s.env.slotAt 0).reset = true) :
    step s = .next s.arrive.abandon := by
  have hacts : s.hostActs = false := by simp [State.hostActs, hr]
  rw [step_busy hp, busyTurn, hacts, if_neg Bool.false_ne_true, blockStep_reset hp hr]

/-- R261: with no move to make, the host waits. -/
theorem step_wait {s : State} (hp : s.block.phase = .idle) (hb : Settled s.host.boot) (hm : s.host.moves = []) :
    step s = .next s.idleArrive := by
  rw [step_idle hp, idleTurn_settled hb, hostTurn, hm, waitStep]

/-- R265: the host that awaits BRINGUP's commit ends its connect. -/
theorem step_await {s : State} (hp : s.block.phase = .idle) (hb : s.host.boot = .await) :
    step s = .next (concludeBoot s) := by
  simp only [step_idle hp, idleTurn, hb]

/-- R260: what a host step finds in a slot that asserts a reset. -/
theorem State.idleArrive_block_reset {s : State} (hr : (s.env.slotAt 0).reset = true) :
    s.idleArrive.block = Block.reset := by
  rw [State.idleArrive_block, Env.next_eq, hr, if_pos rfl]

/-! ### A reset in IDLE is as a reset before the step -/

section
variable {s : State} {c : Slot} {rest : List Slot} (hs : s.env.sched = c :: rest) (hr : c.reset = true)
include hs hr

/-- R260: the block registers reset at once, and the slot's reset left out, lead to the same state before a host step. -/
theorem idleArrive_resetFirst : (resetFirst c rest s).idleArrive = s.idleArrive := by
  simp [State.idleArrive, State.arrive, State.blockReset, Env.advance, Env.slotAt, resetFirst, hs, hr]

theorem accept_resetFirst : (resetFirst c rest s).accept = s.accept := by
  simp only [State.accept, idleArrive_resetFirst hs hr]

/-- R264: the answer to a probe is the slot's, whether or not it asserts a reset. -/
theorem probeStep_resetFirst (made : Nat) : probeStep made s = probeStep made (resetFirst c rest s) := by
  have hreply : (resetFirst c rest s).env.next.reply = s.env.next.reply := by simp [resetFirst, Env.slotAt, hs]
  rw [probeStep, probeStep, hreply, idleArrive_resetFirst hs hr]

variable (hp : s.block.phase = .idle)
include hp

/-- R260: every command accepted in the slot of a reset is as from the block registers already reset. -/
theorem exec_resetFirst (i : Instr) : exec i s = exec i (resetFirst c rest s) := by
  simp only [exec_eq_begin, beginCommand, hp, accept_resetFirst hs hr]
  rfl

theorem acceptWord_resetFirst (w : CmdWord) : acceptWord w s = acceptWord w (resetFirst c rest s) := by
  unfold acceptWord
  split
  · exact exec_resetFirst hs hr hp _
  · rw [acceptIllegal, acceptIllegal, accept_resetFirst hs hr]

theorem hostMove_resetFirst (m : HostMove) : hostMove m s = hostMove m (resetFirst c rest s) := by
  cases m with
  | present w => exact acceptWord_resetFirst hs hr hp w
  | connect | readPort | driveCodec => simp only [hostMove, idleArrive_resetFirst hs hr]

theorem hostTurn_resetFirst : hostTurn s = hostTurn (resetFirst c rest s) := by
  have hmoves : (resetFirst c rest s).host.moves = s.host.moves := rfl
  unfold hostTurn
  rw [hmoves]
  split
  · rw [waitStep, waitStep, idleArrive_resetFirst hs hr]
  · exact hostMove_resetFirst (s := s.popMove) hs hr hp _

/-- R260: every step in IDLE, but the one that ends a connect (log entry 11), is as from the block registers already
reset. -/
theorem step_resetFirst (hb : s.host.boot ≠ .await) : step s = step (resetFirst c rest s) := by
  have hboot : (resetFirst c rest s).host.boot = s.host.boot := rfl
  rw [step_idle hp, step_idle (s := resetFirst c rest s) rfl]
  rcases s.host.boot.settled_or_connecting with h | ⟨made, h⟩ | h | h
  · rw [idleTurn_settled h, idleTurn_settled (hboot ▸ h)]
    exact hostTurn_resetFirst hs hr hp
  · simp only [idleTurn, hboot, h, probeStep_resetFirst hs hr made]
  · simp only [idleTurn, hboot, h]
    exact acceptWord_resetFirst (s := awaitBringup s) hs hr hp bringupWord
  · exact absurd h hb

end

/-! ### A command accepted in the slot of a reset -/

/-- R260, R45: the accept step in the slot of a reset starts from the reset registers. -/
theorem State.accept_block_reset {s : State} (hr : (s.env.slotAt 0).reset = true) :
    s.accept.block = Block.reset.acceptClear := by
  rw [State.accept_block, Env.next_eq, hr, if_pos rfl]

/-- R26, R27: a whole command commits once after its accept step, whatever the accept step's slot asserts, if no later
slot of it asserts a reset. -/
theorem exec_commits_accept {i : Instr} {s t : State} (hg : s.env.grain = .command)
    (hr : ∀ j, 0 < j → j < longest → (s.env.slotAt j).reset = false) (h : exec i s = .next t) :
    Commits s.accept t := by
  rcases exec_blockSteps h with ⟨e, -, rfl⟩ | ⟨-, hidle, n, hn, rfl⟩
  · exact ⟨rfl, rfl, rfl, ⟨_, rfl⟩, rfl⟩
  · have hbegun : StaysBusy s.accept (s.accept.progress i 0 []) := ⟨nofun, rfl, rfl, rfl, rfl⟩
    have hslots : ∀ j < n, ((s.accept.progress i 0 []).env.slotAt j).reset = false := fun j hj => by
      rw [State.accept_progress_slotAt]
      exact hr (j + 1) j.succ_pos (by omega)
    rcases blockSteps_noReset hbegun.phase hslots with hc | hbusy
    · exact hbegun.commits_of hc
    · exact absurd (hidle hg) hbusy.phase

/-- A word taken off the host's moves takes no slot. -/
theorem taken_env (s : State) : (taken s).env = s.env := by
  unfold taken
  split <;> rfl

/-- Settles O49: a reset in BUSY abandons the command (`step_busy_reset`); in IDLE it is as one before the step
(`exec_resetFirst`, `step_resetFirst`), so the command accepted there is the first to commit (`exec_commits_accept`). -/
theorem blockResetAbandonsTheCommand : Obligations.BlockResetAbandonsTheCommand := by
  refine ⟨fun s hp hr => ⟨_, step_busy_reset hp hr, rfl, rfl, rfl⟩,
    fun s hp hb hm => ⟨_, step_wait hp hb hm, s.idleArrive_block, s.idleArrive_trace, s.idleArrive_host,
      s.idleArrive_sensor⟩,
    fun s c rest hp hs hr => ⟨exec_resetFirst hs hr hp, step_resetFirst hs hr hp, fun hb => ?_⟩,
    fun s t hc hr hst => ?_, fun i s t hg hr hlater he => ?_, fun s w hc hi hr => ?_⟩
  · have hr0 : (s.env.slotAt 0).reset = true := by simp [Env.slotAt, hs, hr]
    exact ⟨_, step_await hp hb, State.idleArrive_block_reset hr0, by simp [concludeBoot, hr0], s.idleArrive_trace,
      s.idleArrive_sensor⟩
  · by_cases hp : s.block.phase = .idle
    · obtain ⟨hblock, hcommits, hsensor⟩ := step_noWord hp hc hst
      exact ⟨by rw [hblock, hr, if_pos rfl], hcommits, hsensor⟩
    · rw [step_busy_reset hp hr] at hst
      cases hst
      exact ⟨rfl, rfl, rfl⟩
  · obtain ⟨hphase, hcpc, -, ⟨r, hcommits⟩, -⟩ := exec_commits_accept hg hlater he
    rw [State.accept_block_reset hr] at hcpc
    exact ⟨hcpc, hphase, r, by rw [hcommits, State.accept_trace]⟩
  · have hblock : (taken s).accept.block = Block.reset.acceptClear :=
      State.accept_block_reset (by rw [taken_env, hr])
    refine ⟨_, (step_cmd hc).2.trans (acceptWord_illegal hi _), ?_⟩
    rw [State.raiseError_block, hblock]
    exact ⟨rfl, rfl, rfl, rfl⟩

end Sys2Proof.Machine
end

section
/-! SUPPORT. The boot protocol around the block: its two checks, its probes, and its BRINGUP (R262 to R265). -/

namespace Sys2Proof.Machine

open Sys2Proof Sys2Proof.Claims

/-! ### The two checks -/

/-- R262, R263, R230: the checks in order, with the codes and infos of the errors they find. -/
theorem Boot.start_eq (addr : BitVec 32) (tr : Bool) :
    Boot.start addr tr =
      if addr ≠ 0x28 then .failed 4 addr else if tr = false then .failed 5 0 else .probing 0 := by
  have haddr : Config.devAddr.setWidth 32 = (0x28 : BitVec 32) := rfl
  rw [Boot.start, haddr]
  cases tr <;> rfl

/-- Settles O51: the host's turn makes the move, and the move only starts the protocol (`Boot.start_eq`). -/
theorem connectChecksAddressThenTransport : Obligations.ConnectChecksAddressThenTransport := by
  intro s addr tr rest hp hb hm
  have hmove : step s = .next (connectStart addr tr s.popMove.idleArrive) := by
    rw [step_idle hp, idleTurn_settled hb, hostTurn, hm]
    rfl
  rw [hmove, State.popMove_idleArrive, ← found_eq, found_popMove hm, connectStart, Boot.start_eq]

/-! ### The probes -/

/-- One more step after `n` steps. -/
theorem StepsTo.succ {n : Nat} {s t u : State} (h : StepsTo n s t) (hst : step t = .next u) : StepsTo (n + 1) s u := by
  induction n generalizing s with
  | zero => obtain rfl : s = t := h; exact ⟨u, hst, rfl⟩
  | succ n ih => obtain ⟨v, hv, hvt⟩ := h; exact ⟨v, hv, ih hvt⟩

/-- R264: `t` is `s` after the first `n` probes of a connect have failed: the protocol has counted them, the block is
IDLE, the bus history holds exactly them, and the slots are `n` nearer. -/
structure ProbesFailed (n : Nat) (s t : State) : Prop where
  steps : StepsTo n s t
  phase : t.block.phase = .idle
  boot : t.host.boot = .probing n
  bus : t.trace.bus = List.replicate n (.probe 0x28 false) ++ s.trace.bus
  slots : ∀ j, t.env.slotAt j = s.env.slotAt (n + j)

/-- R264: the protocol's step while it probes. -/
theorem step_probing {s : State} {made : Nat} (hp : s.block.phase = .idle) (hb : s.host.boot = .probing made) :
    step s = .next (probeStep made s) := by
  simp only [step_idle hp, idleTurn, hb]

/-- A probe leaves the block IDLE, a reset in its slot or not (log entry 11). -/
theorem probeStep_phase {s : State} (made : Nat) (hp : s.block.phase = .idle) :
    (probeStep made s).block.phase = .idle := by
  show s.idleArrive.block.phase = .idle
  rw [State.idleArrive_block]
  split
  · rfl
  · exact hp

theorem probeStep_boot (made : Nat) (s : State) :
    (probeStep made s).host.boot = Boot.afterProbe made (writeOk (s.env.slotAt 0).reply) := rfl

theorem probeStep_bus (made : Nat) (s : State) :
    (probeStep made s).trace.bus = .probe 0x28 (writeOk (s.env.slotAt 0).reply) :: s.trace.bus := by
  show .probe Config.devAddr _ :: s.idleArrive.trace.bus = _
  rw [State.idleArrive_trace]
  rfl

theorem probeStep_slotAt (made : Nat) (s : State) (j : Nat) :
    (probeStep made s).env.slotAt j = s.env.slotAt (j + 1) := by
  show s.idleArrive.env.slotAt j = _
  rw [State.idleArrive_env, Env.slotAt_advance]

/-- R264: fewer than five failures leave the protocol probing. -/
theorem probesFailed_of_errors {s : State} (hp : s.block.phase = .idle) (hb : s.host.boot = .probing 0) {n : Nat}
    (hn : n < Config.probeAttempts) (hfail : ∀ j < n, writeOk (s.env.slotAt j).reply = false) :
    ∃ t, ProbesFailed n s t := by
  induction n with
  | zero => exact ⟨s, rfl, hp, hb, rfl, fun j => by rw [Nat.zero_add]⟩
  | succ n ih =>
    obtain ⟨t, ht⟩ := ih (Nat.lt_of_succ_lt hn) fun j hj => hfail j (Nat.lt_succ_of_lt hj)
    have hreply : writeOk (t.env.slotAt 0).reply = false := ht.slots 0 ▸ hfail n n.lt_succ_self
    refine ⟨_, ht.steps.succ (step_probing ht.phase ht.boot), probeStep_phase n ht.phase, ?_, ?_, fun j => ?_⟩
    · rw [probeStep_boot, hreply, Boot.afterProbe, if_neg Bool.false_ne_true, if_pos hn]
    · rw [probeStep_bus, hreply, ht.bus, List.replicate_succ, List.cons_append]
    · rw [probeStep_slotAt, ht.slots, Nat.add_right_comm, Nat.add_assoc]

/-- Settles O52: up to four failures leave the protocol probing (`probesFailed_of_errors`); the next probe's answer
ends the probes. -/
theorem probeGivesUpAfterFiveFailures : Obligations.ProbeGivesUpAfterFiveFailures := by
  refine fun s hp hb => ⟨fun hfail => ?_, fun n hn hfail hok => ?_⟩
  · obtain ⟨t, ht⟩ := probesFailed_of_errors hp hb (n := 4) (by decide) fun j hj => hfail j (by omega)
    have hreply : writeOk (t.env.slotAt 0).reply = false := ht.slots 0 ▸ hfail 4 (by decide)
    refine ⟨_, ht.steps.succ (step_probing ht.phase ht.boot), ?_, probeStep_phase 4 ht.phase, ?_⟩
    · rw [probeStep_boot, hreply]
      rfl
    · rw [probeStep_bus, hreply, ht.bus]
      rfl
  · obtain ⟨t, ht⟩ := probesFailed_of_errors hp hb hn hfail
    have hreply : writeOk (t.env.slotAt 0).reply = true := ht.slots 0 ▸ hok
    refine ⟨_, ht.steps.succ (step_probing ht.phase ht.boot), ?_, probeStep_phase n ht.phase, ?_⟩
    · rw [probeStep_boot, hreply]
      rfl
    · rw [probeStep_bus, hreply, ht.bus]

/-! ### BRINGUP and its error -/

/-- Settles O53: the word that the protocol presents is BRINGUP's (`decode_encode`); the host then reads the error in
the state its step finds (`step_await`). -/
theorem connectEndsWithBringup : Obligations.ConnectEndsWithBringup := by
  refine ⟨fun s hp hb => ?_, fun s hp hb => ?_⟩
  · simp only [step_idle hp, idleTurn, hb]
    exact acceptWord_ok (decode_encode rfl) _
  · have hblock := s.idleArrive_block
    rw [step_await hp hb, concludeBoot, found_eq]
    cases hr : (s.env.slotAt 0).reset with
    | true => simp [hr]
    | false => simp [hr, hblock]

end Sys2Proof.Machine
end
